-- ==== Sys2Proof/Word.lean ====
section
/-! DEFINITION. The fixed-width quantities of EPD-SEQ: bytes on the wire and in the frame buffer, 32-bit host
registers, the 16-bit fields of the constant tables (R11, R24, R99, R100). -/

namespace Sys2Proof

/-- A byte: one unit of the serial bus and of the frame buffer (R11, R65). -/
abbrev Byte := BitVec 8

/-- A host register (R22 to R24): always accessed whole. -/
abbrev Word := BitVec 32

/-- A field of a table record, or a scanline index: 16 bits, unsigned (R24, R99, R100). -/
abbrev Half := BitVec 16

end Sys2Proof
end

