-- ==== Sys2Proof/Config.lean ====
section
/-! DEFINITION. What one machine of this kind fixes: the constants the spec gives (R10), the parameters the spec
leaves OPEN (R10, R96, R123, R134), as one plain record that the state carries unchanged, and the FREE VALUES
(constants with no body) that stand for everything the spec leaves to the environment (R9, R69, U6, U14, U19). -/

namespace Sys2Proof

/-- The panel size enumeration, in the source's order (R21, R101). -/
inductive Size where
  | s144
  | s200
  | s270
  deriving DecidableEq, Repr, Inhabited

/-- The refresh stage operand: 0 is inverse, 1 is normal (R24, R101). -/
inductive Stage where
  | inverse
  | normal
  deriving DecidableEq, Repr, Inhabited

/-- The order in which a fixed-value pass visits the scanlines (R190, parameter FIXED_PASS_ORDER). -/
inductive PassOrder where
  | descending
  | ascending
  deriving DecidableEq, Repr, Inhabited

/-- A `PanelProfile` record (R99); its size is the slot it stands in. -/
structure Profile where
  linesPerDisplay : Half
  dotsPerLine : Half
  bytesPerLine : Half
  bytesPerScan : Half
  channelSelect : List Byte
  deriving DecidableEq, Repr, Inhabited

/-- The invariants every profile row satisfies (R122). -/
def Profile.wf (p : Profile) : Bool :=
  p.bytesPerLine.toNat * 8 == p.dotsPerLine.toNat
    && p.bytesPerScan.toNat * 4 == p.linesPerDisplay.toNat
    && p.channelSelect.length == 9
    && p.channelSelect.head? == some 0x72#8

/-- A `CompensationBand` record: nine 16-bit unsigned fields in the spec's order (R100). -/
structure Band where
  stage1Repeat : Half
  stage1Step : Half
  stage1Block : Half
  stage2Repeat : Half
  stage2Time1 : Half
  stage2Time2 : Half
  stage3Repeat : Half
  stage3Step : Half
  stage3Block : Half
  deriving DecidableEq, Repr, Inhabited

/-- The three temperature bands of one panel size, by `TOFF` (R132). -/
structure BandRow where
  low : Band
  mid : Band
  high : Band
  deriving DecidableEq, Repr, Inhabited

/-- The row's band for an offset (R132). -/
def BandRow.pick (r : BandRow) (o : Fin 3) : Band :=
  if o = 0 then r.low else if o = 1 then r.mid else r.high

/-- The 19 register data bytes, each OPEN (R96). -/
structure RegData where
  oeDisable : Byte
  psave : Byte
  oscOn : Byte
  pwr1 : Byte
  vcom : Byte
  pwr2 : Byte
  latchOn : Byte
  latchOff : Byte
  cpPos : Byte
  cpNeg : Byte
  cpVcom : Byte
  oeCommit : Byte
  oeOffHp : Byte
  cpOff1 : Byte
  cpOff2 : Byte
  cpOff3 : Byte
  oscOff : Byte
  dischOn : Byte
  dischOff : Byte
  deriving DecidableEq, Repr, Inhabited

/-- Every OPEN parameter of R10: the spec fixes none of them, so a claim about every state is a claim about every
choice of them. The fields are ROM: no step writes one (R41). -/
structure Params where
  profile144 : Profile
  profile270 : Profile
  comp144 : BandRow
  comp200 : BandRow
  comp270 : BandRow
  v : RegData
  dcdcMask : Byte
  idArg : Byte
  rdFill : Byte
  borderDefault : Byte
  pollUs : Nat
  busSettleUs : Nat
  clockBits : Nat
  addrBits : Nat
  passOrder : PassOrder
  deriving DecidableEq, Repr, Inhabited

namespace Config

/-! Constants the spec fixes (R10). -/

/-- `PROFILE[S200]`, the one profile the source gives (R121). -/
def profile200 : Profile where
  linesPerDisplay := 96
  dotsPerLine := 200
  bytesPerLine := 25
  bytesPerScan := 24
  channelSelect := [0x72, 0x00, 0x00, 0x00, 0x00, 0x01, 0xFF, 0xE0, 0x00]

/-- `DEFAULT_TEMP`: the temperature of construction (R250). -/
def defaultTemp : Int := 25
/-- `T_LOW` (R130). -/
def tLow : Int := 10
/-- `T_HIGH` (R130). -/
def tHigh : Int := 40
/-- `SENTINEL`: the index of "no real line selected" (R179). -/
def sentinel : Nat := 0x7FFF
/-- `RETRY_MAX`: charge-pump attempts (R151). -/
def retryMax : Nat := 4
/-- `DISCHARGE_PULSES` (R160). -/
def dischargePulses : Nat := 10

/-- `CMD_SELECT` (R86). -/
def cmdSelect : Byte := 0x70
/-- `CMD_READREQ` (R86). -/
def cmdReadReq : Byte := 0x71
/-- `CMD_WRITE` (R86). -/
def cmdWrite : Byte := 0x72
/-- `CMD_READRSP` (R86). -/
def cmdReadRsp : Byte := 0x73

/-- Register addresses of the controller (R95). -/
def aChsel : Byte := 0x00
def aOe : Byte := 0x02
def aLatch : Byte := 0x03
def aPwr : Byte := 0x04
def aCp : Byte := 0x05
def aOsc : Byte := 0x07
def aPwr1 : Byte := 0x08
def aVcom : Byte := 0x09
def aData : Byte := 0x0A
def aPsave : Byte := 0x0B
def aStat : Byte := 0x0F

/-- `COG_ID`: the expected low nibble of the controller ID (R146). -/
def cogId : Byte := 0x02
/-- `BROKEN_MASK` (R147). -/
def brokenMask : Byte := 0x80

/-! Free values: constants with no body. The spec hands each to the environment or leaves it unspecified. -/

/-- The byte the controller returns on transfer number `n` since power-on, where the environment's script says
nothing (R9, R12, U13, U14; log entry 3). -/
opaque freeRx : Nat → Byte

/-- How wait number `n` for BUSY goes, where the script says nothing: `some k` is `k` samples of 1 and then a 0,
`none` is a BUSY that is never sampled 0 (R31, R214, R261, U5; log entry 3). -/
opaque freeWait : Nat → Option Nat

/-- The millisecond clock's sample number `n`, where the script says nothing (R33, R245; log entry 3). -/
opaque freeClock : Nat → Nat

/-- The byte at a frame-buffer address that the host has not filled (R69, U6; log entry 5): a function of the
address alone, since two reads of one address return the same byte (R62). -/
opaque freeByte : Nat → Byte

/-- The compensation tables of the machine as reset leaves it: the spec offers no value (R134; log entry 2). -/
opaque freeComp144 : BandRow
opaque freeComp200 : BandRow
opaque freeComp270 : BandRow

/-! The parameter values of the machine `State.reset` names: the spec's own suggestions, REFSET (R10, R96, R123,
section G of 93_implementation_defined.md), PRESUMED, unsafe (log entry 2). No statement rests on one. -/

/-- Suggested `PROFILE[S144]` (G1). -/
def refProfile144 : Profile where
  linesPerDisplay := 96
  dotsPerLine := 128
  bytesPerLine := 16
  bytesPerScan := 24
  channelSelect := [0x72, 0x00, 0x00, 0x00, 0x00, 0x00, 0x0F, 0xFF, 0x00]

/-- Suggested `PROFILE[S270]` (G1). -/
def refProfile270 : Profile where
  linesPerDisplay := 176
  dotsPerLine := 264
  bytesPerLine := 33
  bytesPerScan := 44
  channelSelect := [0x72, 0x00, 0x00, 0x00, 0x7F, 0xFF, 0xFE, 0x00, 0x00]

/-- Suggested register data bytes (R96, G4). -/
def refRegData : RegData where
  oeDisable := 0x40
  psave := 0x02
  oscOn := 0xD1
  pwr1 := 0x02
  vcom := 0xC2
  pwr2 := 0x03
  latchOn := 0x01
  latchOff := 0x00
  cpPos := 0x01
  cpNeg := 0x03
  cpVcom := 0x0F
  oeCommit := 0x07
  oeOffHp := 0x05
  cpOff1 := 0x0E
  cpOff2 := 0x02
  cpOff3 := 0x00
  oscOff := 0x0D
  dischOn := 0x83
  dischOff := 0x00

/-- The parameters `State.reset` starts from (log entry 2); the compensation tables stay free. -/
def refParams : Params where
  profile144 := refProfile144
  profile270 := refProfile270
  comp144 := freeComp144
  comp200 := freeComp200
  comp270 := freeComp270
  v := refRegData
  dcdcMask := 0x40
  idArg := 0x00
  rdFill := 0x00
  borderDefault := 0x00
  pollUs := 10
  busSettleUs := 10
  clockBits := 32
  addrBits := 32
  passOrder := .descending

/-- The strap `SIZE_SEL` of the machine `State.reset` names: the 2.0 inch panel, the one profile the source gives.
DESIGN CHOICE (log entry 2): the strap is an input, and the host can change it and reset. -/
def refSizeSel : Byte := 1

end Config

/-- `PROFILE[SIZE]` (R120, R121): the 2.0 inch row is the source's, the two others are parameters. -/
def Params.profile (p : Params) : Size → Profile
  | .s144 => p.profile144
  | .s200 => Config.profile200
  | .s270 => p.profile270

/-- `COMP[SIZE][TOFF]` (R132). -/
def Params.band (p : Params) (z : Size) (o : Fin 3) : Band :=
  match z with
  | .s144 => p.comp144.pick o
  | .s200 => p.comp200.pick o
  | .s270 => p.comp270.pick o

end Sys2Proof
end

