-- ==== Sys2Proof/Syntax.lean ====
section
/-! DEFINITION. The twelve rows of spec/opcode_table.json, one constructor each, and the two shapes in which they
are encoded: a host command word (R80) and a chip-select frame of bytes (R86 to R90). -/

namespace Sys2Proof

/-- The instructions: seven host commands, whose operands stand in the argument registers and not in the word
(R80, R82), and the five wire frames that the framing engine emits (R87 to R90). -/
inductive Instr where
  /-- BEGIN (R141). -/
  | beginCmd
  /-- END (R153). -/
  | endCmd
  /-- SETFACTOR (R131). -/
  | setFactor
  /-- FRAME_FIXED_13 (R198). -/
  | frameFixed13
  /-- FRAME_DATA_13 (R199). -/
  | frameData13
  /-- FRAME_STAGE2 (R195). -/
  | frameStage2
  /-- LINE (R171). -/
  | line
  /-- WIRE.SELECT: the frame `[70 a]` (R87, R218). -/
  | wireSelect (a : Byte)
  /-- WIRE.WRITE: the frame `[72 d more...]`, a payload of one byte or of eight (R88, R219, R220). -/
  | wireWrite (d : Byte) (more : List Byte)
  /-- WIRE.LINEDATA: the frame `[72 b odd... scan... even...]` (R90). -/
  | wireLineData (b : Byte) (odd : List Byte) (scan : List Byte) (even : List Byte)
  /-- WIRE.IDREAD: the frame `[71 i]` (R89, R222). -/
  | wireIdRead (i : Byte)
  /-- WIRE.REGREAD: the frame `[73 f]` (R89, R221). -/
  | wireRegRead (f : Byte)
  deriving DecidableEq, Repr

/-- What an instruction is encoded as. A command is one 32-bit write to `CMD`, accessed whole, so it has no byte
order (R65, R80); a wire frame is the byte sequence between one falling and the next rising edge of CS (R15). -/
inductive Code where
  | cmd (w : Word)
  | frame (bytes : List Byte)
  deriving DecidableEq, Repr

end Sys2Proof
end

