-- ==== Sys2Proof/WellFormed.lean ====
section
/-! DEFINITION. Which instructions the encodings admit. A command has no operand that could be illegal (R84(c)). A
0x72 frame is WIRE.LINEDATA or WIRE.WRITE by the register last selected, and each has its own lengths (R88, R90,
the two rows' notes in spec/opcode_table.json). -/

namespace Sys2Proof

/-- What the reading of a wire frame depends on: the register address last selected by a 0x70 frame, and the active
panel's bytes per line and bytes per scan. -/
structure WireCtx where
  sel : Option Byte
  bpl : Nat
  bps : Nat
  deriving DecidableEq, Repr

/-- The context of a frame whose register is `sel` on a panel with profile `p`. -/
def WireCtx.ofProfile (sel : Option Byte) (p : Profile) : WireCtx :=
  { sel := sel, bpl := p.bytesPerLine.toNat, bps := p.bytesPerScan.toNat }

/-- The register last selected is the data register 0x0A, so that a 0x72 frame is a line data frame (R90). -/
def WireCtx.selectsData (c : WireCtx) : Bool := c.sel == some Config.aData

/-- The number of bytes of a line data frame (R90). -/
def WireCtx.lineFrameLength (c : WireCtx) : Nat := 2 + 2 * c.bpl + c.bps

/-- Well-formedness in a context (R84(c), R88, R90). -/
def Instr.wellFormed (c : WireCtx) : Instr → Bool
  | .beginCmd => true
  | .endCmd => true
  | .setFactor => true
  | .frameFixed13 => true
  | .frameData13 => true
  | .frameStage2 => true
  | .line => true
  | .wireSelect _ => true
  | .wireWrite _ more => !c.selectsData && (more.length == 0 || more.length == 7)
  | .wireLineData _ odd scan even =>
      c.selectsData && odd.length == c.bpl && scan.length == c.bps && even.length == c.bpl
  | .wireIdRead _ => true
  | .wireRegRead _ => true

end Sys2Proof
end

