-- ==== Sys2Proof/Decode.lean ====
section
/-! DEFINITION. The decoder, total on any word and any byte sequence and rejecting by name, and the encoder, both
written from 30_encoding.md (R80 to R90). EPD-SEQ decodes only command words (R83); a frame is decoded as the
controller at the other end would take it (the table's note), which is how a wire row's word becomes an instruction. -/

namespace Sys2Proof

/-- Why a word or a frame encodes no instruction. -/
inductive DecodeError where
  /-- `CMD[31:4]` is not 0: a reserved encoding (R84(a)). -/
  | upperBits
  /-- `OP` is 0 or 8 to 15: a reserved encoding (R84(a)). -/
  | reservedOpcode (op : Nat)
  /-- A frame of no bytes: no frame is sent empty (R215). -/
  | emptyFrame
  /-- A frame whose first byte is none of the four command bytes (R98). -/
  | unknownCommand (b : Byte)
  /-- A frame whose length is none of those its command byte allows (R87 to R90). -/
  | frameLength (n : Nat)
  deriving DecidableEq, Repr

/-- A command word: `OP = CMD[3:0]`, the rest 0 (R80, R82, R84). -/
def decodeCmd (w : Word) : Except DecodeError Instr :=
  if w >>> 4 ≠ 0#32 then .error .upperBits
  else
    match (w &&& 0xF#32).toNat with
    | 1 => .ok .beginCmd
    | 2 => .ok .endCmd
    | 3 => .ok .setFactor
    | 4 => .ok .frameFixed13
    | 5 => .ok .frameData13
    | 6 => .ok .frameStage2
    | 7 => .ok .line
    | op => .error (.reservedOpcode op)

/-- The payload of a line data frame, cut into border, odd, scan and even bytes (R90). -/
def splitLineData (c : WireCtx) : List Byte → Except DecodeError Instr
  | [] => .error (.frameLength 1)
  | b :: rest =>
    if rest.length = c.bpl + c.bps + c.bpl then
      .ok (.wireLineData b (rest.take c.bpl) ((rest.drop c.bpl).take c.bps) (rest.drop (c.bpl + c.bps)))
    else .error (.frameLength (rest.length + 2))

/-- The payload of any other write frame: one byte or eight (R88). -/
def splitWrite : List Byte → Except DecodeError Instr
  | [] => .error (.frameLength 1)
  | d :: more =>
    if more.length = 0 ∨ more.length = 7 then .ok (.wireWrite d more)
    else .error (.frameLength (more.length + 2))

/-- The two-byte frames: exactly one byte follows the command byte (R87, R89). -/
def oneOperand (mk : Byte → Instr) : List Byte → Except DecodeError Instr
  | [x] => .ok (mk x)
  | rest => .error (.frameLength (rest.length + 1))

/-- A wire frame, read in its context (R86 to R90). -/
def decodeFrame (c : WireCtx) : List Byte → Except DecodeError Instr
  | [] => .error .emptyFrame
  | k :: rest =>
    if k = Config.cmdSelect then oneOperand .wireSelect rest
    else if k = Config.cmdReadReq then oneOperand .wireIdRead rest
    else if k = Config.cmdReadRsp then oneOperand .wireRegRead rest
    else if k = Config.cmdWrite then
      if c.selectsData then splitLineData c rest else splitWrite rest
    else .error (.unknownCommand k)

/-- The decoder: both encodings, which share no code. -/
def decode (c : WireCtx) : Code → Except DecodeError Instr
  | .cmd w => decodeCmd w
  | .frame bytes => decodeFrame c bytes

/-- The encoder, from the same tables (R82, R86 to R90). -/
def encode : Instr → Code
  | .beginCmd => .cmd 1
  | .endCmd => .cmd 2
  | .setFactor => .cmd 3
  | .frameFixed13 => .cmd 4
  | .frameData13 => .cmd 5
  | .frameStage2 => .cmd 6
  | .line => .cmd 7
  | .wireSelect a => .frame [Config.cmdSelect, a]
  | .wireWrite d more => .frame (Config.cmdWrite :: d :: more)
  | .wireLineData b odd scan even => .frame (Config.cmdWrite :: b :: (odd ++ scan ++ even))
  | .wireIdRead i => .frame [Config.cmdReadReq, i]
  | .wireRegRead f => .frame [Config.cmdReadRsp, f]

/-- The bytes of an `n`-byte frame numbered as spec/opcode_table.json numbers it: the first byte on the wire is the
most significant (the rows say `cmd: 15:8 (first byte on the wire)`). -/
def frameBytes : Nat → Nat → List Byte
  | 0, _ => []
  | n + 1, w => BitVec.ofNat 8 (w >>> (8 * n)) :: frameBytes n w

/-- A table word laid out as the hardware takes it: a 32-bit row is a command word, any other row a frame. -/
def tableCode (nbits w : Nat) : Code :=
  if nbits = 32 then .cmd (BitVec.ofNat 32 w) else .frame (frameBytes (nbits / 8) w)

/-- The context in which a table word is read: the 2.0 inch panel, and no register selected, except that a frame as
long as that panel's whole line data frame is read with register 0x0A selected. The rows WIRE.WRITE and
WIRE.LINEDATA give the same 16 bits; without a select frame before them those 16 bits are WIRE.WRITE (log entry 8). -/
def tableCtx (nbits : Nat) : WireCtx :=
  let c := WireCtx.ofProfile none Config.profile200
  if nbits = 8 * c.lineFrameLength then { c with sel := some Config.aData } else c

/-- The instruction the decoder reads from a word of the opcode table. -/
def decodeTableWord (nbits w : Nat) : Option Instr :=
  match decode (tableCtx nbits) (tableCode nbits w) with
  | .ok i => some i
  | .error _ => none

end Sys2Proof
end

