-- ==== Sys2Proof/Machine/State.lean ====
section
/-! DEFINITION. The state of EPD-SEQ (R20 to R36), the environment's answers and the host's pending accesses as plain
data (R9), the trace (R12), the reasons a step can stop, and the state after reset (R40, R250). -/

namespace Sys2Proof.Machine

/-- The status code `ST`, two bits, all four codes used (R23, R101). -/
inductive Status where
  | ok
  | unsupportedController
  | panelBroken
  | powerFailure
  deriving DecidableEq, Repr, Inhabited

/-- The code a host reads in `STATUS[1:0]` (R23). -/
def Status.code : Status → Word
  | .ok => 0
  | .unsupportedController => 1
  | .panelBroken => 2
  | .powerFailure => 3

/-- The power state machine's states (R27, R140). -/
inductive Psm where
  | uninitialized
  | poweringUp
  | verifying
  | ready
  | faulted
  | poweredDown
  deriving DecidableEq, Repr, Inhabited

/-- The five output pins (R30). -/
inductive Pin where
  | reset
  | panelOn
  | discharge
  | border
  | cs
  deriving DecidableEq, Repr, Inhabited

/-- `PIN[p]`: the level each output pin holds, true for 1 (high) (R30). -/
structure Pins where
  reset : Bool
  panelOn : Bool
  discharge : Bool
  border : Bool
  cs : Bool
  deriving DecidableEq, Repr, Inhabited

/-- The argument registers `x[0..3]` (R24). -/
structure Args where
  /-- `x[0]`, `ARG_LINE`. -/
  line : Word
  /-- `x[1]`, `ARG_PIX`. -/
  pix : Word
  /-- `x[2]`, `ARG_TEMP`. -/
  temp : Word
  /-- `x[3]`, `ARG_FB`. -/
  fb : Word
  deriving DecidableEq, Repr, Inhabited

/-- The working registers (R29): live only while `RUN = 1`. -/
structure Work where
  /-- Latched operand `index` (R81). -/
  index : Half
  /-- Latched operand `value`. -/
  value : Byte
  /-- Latched operand `border`. -/
  border : Byte
  /-- Latched operand `stage`. -/
  stage : Stage
  /-- Latched operand `usesData`. -/
  usesData : Bool
  /-- Latched operand `temperature`, sign-extended (R81). -/
  temperature : Int
  /-- Latched operand `base`. -/
  base : Nat
  /-- BEGIN's attempt counter `i`, 0 to 3 (R151). -/
  attempt : Nat
  /-- BEGIN's flag `dc_ok` (R151). -/
  dcOk : Bool
  /-- `frame_fixed_timed`: the two clock samples (R191). -/
  t0 : Nat
  t1 : Nat
  /-- `frame_fixed_timed`: the accumulator, a mathematical natural number (R193). -/
  acc : Nat
  /-- The line counter of a fixed-value pass (R190). -/
  lineCtr : Nat
  /-- The sweep's pass counter `n` (R197). -/
  pass : Nat
  /-- The sweep's signed block start `line` (R197). -/
  blockStart : Int
  /-- The sweep's offset `off` (R197). -/
  off : Nat
  /-- The sweep's signed position `pos` (R197). -/
  spot : Int
  /-- The pulse counter of `power_off` (R160). -/
  pulse : Nat
  /-- LINE's byte counter `b` (R171). -/
  b : Nat
  /-- LINE's scan position `p` (R171). -/
  p : Int
  /-- The byte the last transfer returned (R214). -/
  rx : Byte
  /-- The last byte returned by `ReadFramed` (R29, R216). -/
  last : Byte
  deriving DecidableEq, Repr, Inhabited

/-- The sequencer position (R28), as far as a step can end at one. An operation runs from its command to its return
in ONE step, so a position is held only inside a loop of R240 that has no bound, and before frames yet to be sent. -/
inductive Pos where
  /-- No position: `RUN = 0`. -/
  | idle
  /-- In a wait whose BUSY is never sampled 0 (R261); `polled` in the ready wait of BEGIN step 3 (R145). -/
  | busyWait (polled : Bool)
  /-- In FRAME_STAGE2, between two passes of the first listed half (value, minimum milliseconds); the halves after
  it are still to run (R191, R195). -/
  | timed (todo : List (Byte × Nat))
  /-- In a sweep whose step is 0 (R203): blocks of `block` flush lines, for ever. -/
  | zeroStep (block : Nat)
  /-- Before the listed wire frames, one sent a step, and then the return. No operation leaves this position: it is
  where a wire row of the opcode table is loaded (log entry 8). -/
  | sending (frames : List (List Byte))
  deriving DecidableEq, Repr, Inhabited

/-- An event of the trace (R12). -/
inductive Event where
  /-- `P(p,v)`. -/
  | pin (p : Pin) (v : Bool)
  /-- `B?v`. -/
  | busy (v : Bool)
  /-- `X(b>r)`. -/
  | xfer (b : Byte) (r : Byte)
  /-- `Dms(n)`. -/
  | delayMs (n : Nat)
  /-- `Dus(n)`. -/
  | delayUs (n : Nat)
  /-- `T?v`. -/
  | clock (v : Nat)
  /-- `M?(addr>v)`. -/
  | mem (addr : Nat) (v : Byte)
  /-- `BUS(1)`, `BUS(0)`. -/
  | bus (on : Bool)
  /-- `ST<-c`. -/
  | status (c : Status)
  deriving DecidableEq, Repr

/-- The frame-buffer space as the host has filled it (R60, R61): addresses strictly rising. An unlisted address has
no value of its own; reading it gives a free value (R69; log entry 5), so no entry can equal it. -/
abbrev Memory := List Host.Cell

/-- What the environment will answer (R9): the controller's byte for each transfer, each wait for BUSY, each sample
of the clock, in order since power-on. Beyond a script's end the answer is a free value of `Config` (log entry 3). -/
structure Env where
  /-- The byte returned by transfer number 0, 1, ... (R12). -/
  rx : List Byte
  /-- Wait number 0, 1, ...: `some k` is `k` samples of 1 and then a 0; `none` never samples a 0 (R214). -/
  waits : List (Option Nat)
  /-- Clock sample number 0, 1, ... (R33). -/
  clock : List Nat
  deriving DecidableEq, Repr, Inhabited

/-- What the host does (R9, R35, R102). -/
inductive HostAct where
  /-- A register write of `width` bits at a byte offset (R35). -/
  | write (width : Nat) (offset : Nat) (v : Word)
  /-- A register read (R35). -/
  | read (width : Nat) (offset : Nat)
  /-- WAIT: read `STATUS` until `RUN = 0` (R102). -/
  | wait
  /-- The host fills a byte of the frame buffer it owns (R61). -/
  | poke (addr : Nat) (v : Byte)
  /-- The strap `SIZE_SEL` is set to a code (R21, R252). -/
  | strap (code : Byte)
  /-- Hardware reset (R250). -/
  | reset
  deriving DecidableEq, Repr

/-- The state. -/
structure State where
  /-- The OPEN parameters: configuration, written by no step (R10, R41; log entry 2). -/
  par : Params
  /-- The strap input `SIZE_SEL` (R21). -/
  sizeSel : Byte
  /-- `SIZE`, selected at reset; with `par` it gives the active PanelProfile (R21, R120). -/
  size : Size
  /-- `STATUS.RUN` (R23). -/
  run : Bool
  /-- `STATUS.ST` (R23, R26). -/
  st : Status
  /-- `x[0..3]` (R24). -/
  args : Args
  /-- `TOFF`, values 0, 1, 2 only (R25). -/
  toff : Fin 3
  /-- `PSM` (R27). -/
  psm : Psm
  /-- The sequencer position (R28). -/
  pos : Pos
  /-- The working registers (R29). -/
  work : Work
  /-- `RXCAP[0..3]` (R36). -/
  rxcap : Vector Byte 4
  /-- `PIN` (R30). -/
  pins : Pins
  /-- `BUS_EN` (R32). -/
  busEn : Bool
  /-- The frame buffer (R34, R61). -/
  mem : Memory
  /-- The environment's answers (R9). -/
  env : Env
  /-- Transfers made since power-on: which answer comes next (the model's own). -/
  rxSeen : Nat
  /-- Waits begun since power-on, a wait that never ends among them (the model's own; log entry 3). -/
  waitSeen : Nat
  /-- Clock samples taken since power-on (the model's own). -/
  clockSeen : Nat
  /-- The register address last selected by a 0x70 frame (R87): what tells WIRE.LINEDATA from WIRE.WRITE (the
  model's own). -/
  sel : Option Byte
  /-- Operations returned since power-on: the index of the free values the working registers then hold (the model's
  own; R29, U19; log entry 6). -/
  returns : Nat
  /-- The host's accesses still to be made, the next one first (R102; the model's own). -/
  hostQ : List HostAct
  /-- The value the last host read returned (R35; the model's own). -/
  hostRd : Word
  /-- The trace of every operation so far, oldest event first (R12; the model's own). -/
  trace : List Event
  deriving DecidableEq, Repr

/-- The working registers after a return: unspecified (R29, U19), a free value for each return (log entry 6). -/
opaque freeWork : Nat → Work

/-- Why the machine stops. The hardware has no traps: its three faults are status codes, modelled as effects (R230,
R236), and nothing here stands for one. -/
inductive Fault where
  /-- Raised by `HostPort.poke`: the host names an address outside the `ADDR_BITS`-bit frame-buffer space, which
  does not exist (R60). Safe: the model stops where the hardware has nothing to go on with. -/
  | noSuchAddress (addr : Nat)
  deriving DecidableEq, Repr

/-- What has no meaning in the model. -/
inductive Refusal where
  /-- Raised by an arm of `exec` that has no meaning yet; none is left. Safe. -/
  | notModelled (mnemonic : String)
  /-- Raised by `HostPort`: a host register access of a width other than 32 bits or at an offset that is no multiple
  of 4, which the spec says a model refuses (R66, U3). Safe. -/
  | hostAccess (width : Nat) (offset : Nat)
  /-- Raised by `HostPort.poke`: the host changes the frame buffer while an operation runs, which the spec says a
  model refuses (R266, U18). Safe. -/
  | bufferInUse
  /-- Raised by `HostPort.reset`: a row of `PROFILE`, selected or not, breaks the invariants of R122, which the spec says
  a model refuses at table load (U12). Safe. -/
  | profileTable
  /-- Raised by `step` at position `sending`: the frame to send is none that the encodings have (R98). Safe. -/
  | reservedFrame
  deriving DecidableEq, Repr

/-- The working registers the model names for reset: all 0, where the spec says unspecified (R40). DESIGN CHOICE,
unsafe (log entry 1). -/
def Work.zero : Work where
  index := 0
  value := 0
  border := 0
  stage := .inverse
  usesData := false
  temperature := 0
  base := 0
  attempt := 0
  dcOk := false
  t0 := 0
  t1 := 0
  acc := 0
  lineCtr := 0
  pass := 0
  blockStart := 0
  off := 0
  spot := 0
  pulse := 0
  b := 0
  p := 0
  rx := 0
  last := 0

/-- All five pins low (R40, R161). -/
def Pins.low : Pins := { reset := false, panelOn := false, discharge := false, border := false, cs := false }

/-- The argument registers at reset (R40). -/
def Args.zero : Args := { line := 0, pix := 0, temp := 0, fb := 0 }

/-- The machine right after reset (R40, R250), with the strap at the code of the 2.0 inch panel and the suggested
parameters (log entry 2), an empty frame buffer, no scripted answer and no pending host access. -/
def State.reset : State where
  par := Config.refParams
  sizeSel := Config.refSizeSel
  size := .s200
  run := false
  st := .ok
  args := Args.zero
  toff := 1
  psm := .uninitialized
  pos := .idle
  work := Work.zero
  rxcap := Vector.replicate 4 0#8
  pins := Pins.low
  busEn := false
  mem := []
  env := { rx := [], waits := [], clock := [] }
  rxSeen := 0
  waitSeen := 0
  clockSeen := 0
  sel := none
  returns := 0
  hostQ := []
  hostRd := 0
  trace := []

/-- The active PanelProfile (R120). -/
def State.profile (s : State) : Profile := s.par.profile s.size

/-- L, `linesPerDisplay` of the active profile (R120). -/
def State.lines (s : State) : Nat := s.profile.linesPerDisplay.toNat

/-- bpl, `bytesPerLine` of the active profile (R120). -/
def State.bpl (s : State) : Nat := s.profile.bytesPerLine.toNat

/-- bps, `bytesPerScan` of the active profile (R120). -/
def State.bps (s : State) : Nat := s.profile.bytesPerScan.toNat

/-- The active compensation band, `COMP[SIZE][TOFF]` (R132). -/
def State.band (s : State) : Band := s.par.band s.size s.toff

end Sys2Proof.Machine
end

