-- ==== Sys2Proof/Machine/Operands.lean ====
section
/-! DEFINITION. Every operand form: the assembly of a command's operands from the argument registers (R81), the
addresses of the frame buffer (R61), the pixel encoders and scan bytes (R92, R93, R176 to R179), the band index
(R130), elapsed time (R192) and the visits of a sweep (R197). -/

namespace Sys2Proof.Machine

/-! ## Host operands (R24, R81) -/

/-- `index = zext_16(x[0][15:0])`. -/
def Args.index (x : Args) : Half := x.line.extractLsb' 0 16

/-- `value = x[1][7:0]`. -/
def Args.value (x : Args) : Byte := x.pix.extractLsb' 0 8

/-- `border = x[1][15:8]`. -/
def Args.border (x : Args) : Byte := x.pix.extractLsb' 8 8

/-- `stage = inverse if x[1][16] = 0 else normal`. -/
def Args.stage (x : Args) : Stage := if x.pix.getLsbD 16 then .normal else .inverse

/-- `usesData = x[1][17]`. -/
def Args.usesData (x : Args) : Bool := x.pix.getLsbD 17

/-- `temperature = sext_32(x[2])`. -/
def Args.temperature (x : Args) : Int := x.temp.toInt

/-- `base = x[3][ADDR_BITS-1:0]`. R10 puts no bound on `ADDR_BITS`, and the spec does not say what the bits of `base`
above bit 31 are where `ADDR_BITS` exceeds the 32 bits of `x[3]`: here they are 0 (DESIGN CHOICE, log entry 21). -/
def Args.base (x : Args) (addrBits : Nat) : Nat := x.fb.toNat % 2 ^ addrBits

/-- Acceptance of a command (R83): the operands of R81 are latched into the working registers and `RUN <- 1`. -/
def accept (s : State) : State :=
  { s with
    run := true
    work := { s.work with
      index := s.args.index
      value := s.args.value
      border := s.args.border
      stage := s.args.stage
      usesData := s.args.usesData
      temperature := s.args.temperature
      base := s.args.base s.par.addrBits } }

/-- The operands of one LINE (R170); `data` is an address, used only when `usesData`. -/
structure LineArgs where
  index : Nat
  data : Nat
  value : Byte
  usesData : Bool
  stage : Stage
  border : Byte
  deriving DecidableEq, Repr

/-- The operands LINE takes from the latched registers (R170): `data = base`. -/
def Work.lineArgs (w : Work) : LineArgs :=
  { index := w.index.toNat, data := w.base, value := w.value, usesData := w.usesData, stage := w.stage,
    border := w.border }

/-- A LINE of a fixed value with the machine's default border byte (R172, R190, R198). -/
def fixedLine (index : Nat) (value : Byte) (stage : Stage) (border : Byte) : LineArgs :=
  { index := index, data := 0, value := value, usesData := false, stage := stage, border := border }

/-- A LINE of a scanline of the image at `img` (R199): `data = addr(img, pos, 0)`. -/
def imageLine (img bpl addrBits : Nat) (index : Nat) (stage : Stage) (border : Byte) : LineArgs :=
  { index := index, data := (img + index * bpl) % 2 ^ addrBits, value := 0, usesData := true, stage := stage,
    border := border }

/-! ## Frame-buffer addresses (R61) -/

/-- The address of the byte at an offset from `data`, modulo `2^ADDR_BITS`. -/
def byteAddr (data off addrBits : Nat) : Nat := (data + off) % 2 ^ addrBits

/-! ## Pixel encoders (R92, R176, R177) -/

/-- `odd(x, s)`. -/
def odd (x : Byte) : Stage → Byte
  | .normal => 0xAA ||| (x &&& 0x55)
  | .inverse => 0xAA ||| ((x &&& 0x55) ^^^ 0x55)

/-- `pre(x, s)`. -/
def pre (x : Byte) : Stage → Byte
  | .normal => 0xAA ||| ((x &&& 0xAA) >>> 1)
  | .inverse => 0xAA ||| (((x &&& 0xAA) ^^^ 0xAA) >>> 1)

/-- `rev(v)`: the four pairs in the opposite order. -/
def rev (v : Byte) : Byte :=
  ((v &&& 0xC0) >>> 6) ||| ((v &&& 0x30) >>> 2) ||| ((v &&& 0x0C) <<< 2) ||| ((v &&& 0x03) <<< 6)

/-- `even(x, s)`. -/
def even (x : Byte) (st : Stage) : Byte := rev (pre x st)

/-! ## Scan-activation bytes (R93, R179) -/

/-- `p = floor((L - index - 1) / 4)`: Lean's division of integers by a positive number is the floor (D24). -/
def scanPos (lines index : Nat) : Int := ((lines : Int) - index - 1) / 4

/-- The marker `0x03 << (2 * (index mod 4))`. -/
def scanMarker (index : Nat) : Byte := 0x03 <<< (2 * (index % 4))

/-- `scan[b]`. -/
def scanByte (lines index b : Nat) : Byte := if (b : Int) = scanPos lines index then scanMarker index else 0

/-! ## The band index (R130) -/

/-- `offset(t)`. -/
def bandOffset (t : Int) : Fin 3 := if t < Config.tLow then 0 else if t ≤ Config.tHigh then 1 else 2

/-! ## The size selector (R21, R120) -/

/-- `resolve(SIZE_SEL)`. -/
def resolveSize (sel : Byte) : Size :=
  if sel = 0 then .s144 else if sel = 1 then .s200 else if sel = 2 then .s270 else .s144

/-! ## Elapsed time (R192) -/

/-- `elapsed(t0, t1)` for W-bit samples. -/
def elapsed (w t0 t1 : Nat) : Nat := if t0 ≤ t1 then t1 - t0 else t1 + 2 ^ w - t0

/-! ## Orders and visits (R190, R196, R197) -/

/-- `ORDER(L)` (R190). -/
def passLines : PassOrder → Nat → List Nat
  | .descending, n => (List.range n).reverse
  | .ascending, n => List.range n

/-- The (repeat, step, block) of a sweep (R196). -/
structure SweepParams where
  rep : Nat
  step : Nat
  block : Nat
  deriving DecidableEq, Repr

/-- The triple a stage selects from a band (R196). -/
def sweepParams (b : Band) : Stage → SweepParams
  | .inverse => { rep := b.stage1Repeat.toNat, step := b.stage1Step.toNat, block := b.stage1Block.toNat }
  | .normal => { rep := b.stage3Repeat.toNat, step := b.stage3Step.toNat, block := b.stage3Block.toNat }

/-- Where a sweep stands: pass `n`, block start `line`, offset `off` (R197). -/
structure Spot where
  n : Nat
  line : Int
  off : Nat
  deriving DecidableEq, Repr

/-- `pos = line + off`. -/
def Spot.pos (q : Spot) : Int := q.line + q.off

/-- What a visit sends: a flush line, a settle line or a real line (R197). -/
inductive Visit where
  | flush
  | settle (pos : Nat)
  | real (pos : Nat)
  deriving DecidableEq, Repr

/-- The policy of a visited position, the three tests in the order written (R197). -/
def Spot.visit (q : Spot) (rep total : Nat) : Visit :=
  if q.pos < 0 ∨ q.pos > total then .flush
  else if q.off = 0 ∧ q.n + 1 = rep then .settle q.pos.toNat
  else .real q.pos.toNat

/-- The values of `line` in one pass: `while line < total + step`, advancing by `step` (R197). The fuel is the number
of times the loop may still run; with `step ≥ 1` the loop runs at most `total + block` times (R201). -/
def blockStarts (total step : Nat) : Nat → Int → List Int
  | 0, _ => []
  | fuel + 1, line =>
    if line < (total : Int) + step then line :: blockStarts total step fuel (line + step) else []

/-- The spots of a whole sweep whose step is not 0, in order (R197). -/
def SweepParams.spots (q : SweepParams) (total : Nat) : List Spot :=
  (List.range q.rep).flatMap fun n =>
    (blockStarts total q.step (total + q.block) ((q.step : Int) - q.block)).flatMap fun line =>
      (List.range q.block).map fun off => { n := n, line := line, off := off }

/-- The visits of a whole sweep whose step is not 0, in order (R197). -/
def SweepParams.visits (q : SweepParams) (total : Nat) : List Visit :=
  (q.spots total).map fun p => p.visit q.rep total

/-- The sweep never ends: a first pass begins, `line` never changes and stays below `total + step` (R203, R263). -/
def SweepParams.endless (q : SweepParams) (total : Nat) : Bool :=
  q.rep ≥ 1 && q.step == 0 && decide (-(q.block : Int) < total)

end Sys2Proof.Machine
end

