-- ==== Sys2Proof/Machine/Ops.lean ====
section
/-! DEFINITION. The operations every meaning is written in: the frame buffer, the order of execution, the port
primitives (R12), the framing engine (R210 to R222), `power_off` (R160), the fault path `raise` (R236), and the end of
an operation (R83). -/

namespace Sys2Proof.Machine

/-! ## The frame buffer (R60 to R69) -/

/-- The canonical form of a frame buffer: addresses strictly rising. -/
abbrev Memory.wf (m : Memory) : Prop := m.Pairwise (fun c d => c.1 < d.1)

/-- What the host stored at an address, if it stored anything. -/
def Memory.stored (m : Memory) (addr : Nat) : Option Byte :=
  match m with
  | [] => none
  | (a, v) :: rest => if a = addr then some v else Memory.stored rest addr

/-- The byte at an address: what the host stored, else the free value of that address (R62, R69). -/
def Memory.byte (m : Memory) (addr : Nat) : Byte := (m.stored addr).getD (Config.freeByte addr)

/-- The host stores a byte; the form stays canonical. EPD-SEQ itself never writes (R64). -/
def Memory.store (m : Memory) (addr : Nat) (v : Byte) : Memory :=
  match m with
  | [] => [(addr, v)]
  | (a, w) :: rest =>
    if addr < a then (addr, v) :: (a, w) :: rest
    else if addr = a then (addr, v) :: rest
    else (a, w) :: Memory.store rest addr v

/-! ## The environment's answers (R9) -/

/-- The byte transfer number `n` returns. -/
def Env.rxAt (e : Env) (n : Nat) : Byte := e.rx.getD n (Config.freeRx n)

/-- How wait number `n` goes. -/
def Env.waitAt (e : Env) (n : Nat) : Option Nat := e.waits.getD n (Config.freeWait n)

/-- The W-bit clock sample number `n` (R33). -/
def Env.clockAt (e : Env) (w : Nat) (n : Nat) : Nat := e.clock.getD n (Config.freeClock n) % 2 ^ w

/-! ## Order of execution (R28, R70, R240) -/

/-- Where an operation is after a part of it: it goes on with the next written step, or it has left the written
order, by an early return or in a loop that has no end in this step. -/
inductive Flow where
  | on (s : State)
  | off (s : State)
  deriving DecidableEq, Repr

/-- The state either way. -/
def Flow.state : Flow → State
  | .on s => s
  | .off s => s

/-- A part of an operation. -/
abbrev Op := State → Flow

/-- One part, then the next, if the first goes on. -/
def Flow.andThen : Flow → Op → Flow
  | .on s, k => k s
  | .off s, _ => .off s

/-- The parts of a list, in its order. -/
def inOrder : List Op → Op
  | [] => .on
  | o :: rest => fun s => (o s).andThen (inOrder rest)

/-- A counted loop: the body for each listed value, in the list's order. -/
def forEach {α : Type} (body : α → Op) : List α → Op
  | [] => .on
  | x :: rest => fun s => (body x s).andThen (forEach body rest)

/-- A part that always goes on. -/
def act (f : State → State) : Op := fun s => .on (f s)

/-! ## Port primitives (R12) -/

/-- Append one event to the trace (R12). -/
def emit (e : Event) (s : State) : State := { s with trace := s.trace ++ [e] }

/-- Change the working registers (R29). -/
def setWork (f : Work → Work) (s : State) : State := { s with work := f s.work }

/-- The pins with one of them at a level (R30). -/
def Pins.set (q : Pins) : Pin → Bool → Pins
  | .reset, v => { q with reset := v }
  | .panelOn, v => { q with panelOn := v }
  | .discharge, v => { q with discharge := v }
  | .border, v => { q with border := v }
  | .cs, v => { q with cs := v }

/-- `PinWrite(p, v)` (R12). -/
def pinWrite (p : Pin) (v : Bool) (s : State) : State :=
  emit (.pin p v) { s with pins := s.pins.set p v }

/-- `Xfer(b)` (R12): one byte out, the environment's byte in. -/
def xfer (b : Byte) (s : State) : State :=
  let r := s.env.rxAt s.rxSeen
  emit (.xfer b r) { s with rxSeen := s.rxSeen + 1, work := { s.work with rx := r } }

/-- `DelayMs(n)` (R12, R270). -/
def delayMs (n : Nat) (s : State) : State := emit (.delayMs n) s

/-- `DelayUs(n)` (R12, R270). -/
def delayUs (n : Nat) (s : State) : State := emit (.delayUs n) s

/-- `ST <- c` (R12). -/
def setStatus (c : Status) (s : State) : State := emit (.status c) { s with st := c }

/-- `PSM <- q` (R140). -/
def setPsm (q : Psm) (s : State) : State := { s with psm := q }

/-- The sample `NowMs()` takes (R12, R33). -/
def nowSample (s : State) : Nat := s.env.clockAt s.par.clockBits s.clockSeen

/-- `NowMs()`: the sample is taken and handed to the working registers by `f` (R12, R29). -/
def nowMs (f : Nat → Work → Work) (s : State) : State :=
  emit (.clock (nowSample s)) { s with clockSeen := s.clockSeen + 1, work := f (nowSample s) s.work }

/-- The byte `MemRead(addr, 1)` returns (R62). -/
def memByte (addr : Nat) (s : State) : Byte := s.mem.byte addr

/-- The event of `MemRead(addr, 1)` (R62). -/
def memRead (addr : Nat) (s : State) : State := emit (.mem addr (memByte addr s)) s

/-- `BusOn()` (R210). -/
def busOn (s : State) : State := emit (.bus true) { s with busEn := true }

/-- `BusOff()` (R210). -/
def busOff (s : State) : State := emit (.bus false) { s with busEn := false }

/-- The samples of one wait that ends: `k` of 1, each followed by `gap`, and then a 0 (R145, R214). -/
def waitEvents (gap : List Event) (k : Nat) : List Event :=
  (List.replicate k (.busy true :: gap)).flatten ++ [.busy false]

/-- A wait for BUSY, `gap` after each sample of 1. A wait that the environment never ends leaves the operation
there, `RUN` at 1 and one more sample of 1 at each step (R261, U5; log entry 4). It counts as a wait begun either way,
so a wait after the reset that abandons it has an answer of its own: what BUSY does then is free (R9, R261; DESIGN
CHOICE, log entry 3). -/
def waitWhileBusy (polled : Bool) (gap : List Event) : Op := fun s =>
  match s.env.waitAt s.waitSeen with
  | some k => .on { s with waitSeen := s.waitSeen + 1, trace := s.trace ++ waitEvents gap k }
  | none =>
    .off { s with
      run := true
      pos := .busyWait polled
      waitSeen := s.waitSeen + 1
      trace := s.trace ++ [.busy true] }

/-! ## The framing engine (R210 to R222) -/

/-- `BusEnable()` (R211). -/
def busEnable (s : State) : State := delayUs s.par.busSettleUs (xfer 0 (xfer 0 (busOn s)))

/-- `BusDisable()` (R212): BUSY is not sampled, `BUS_EN` is not tested. -/
def busDisable (s : State) : State := busOff (delayUs s.par.busSettleUs (xfer 0 (xfer 0 s)))

/-- `XferW(b)` (R214). -/
def xferW (b : Byte) : Op := fun s => waitWhileBusy false [] (xfer b s)

/-- `WriteFramed(bytes)` (R215). -/
def writeFramed (bytes : List Byte) : Op :=
  inOrder [act (pinWrite .cs false), forEach xferW bytes, act (pinWrite .cs true)]

/-- The first four responses of a read frame are captured, and each response is the last so far (R216). -/
def capture (k : Nat) (s : State) : State :=
  { s with rxcap := s.rxcap.setIfInBounds k s.work.rx, work := { s.work with last := s.work.rx } }

/-- `ReadFramed(bytes)` (R216); the byte it returns stands in the working register `last`. -/
def readFramed (bytes : List Byte) : Op :=
  inOrder
    [act (pinWrite .cs false),
     forEach (fun (b, k) => inOrder [xferW b, act (capture k)]) bytes.zipIdx,
     act (pinWrite .cs true)]

/-- The register a select frame names is the one the next write or read frame addresses (R87). -/
def noteSelect (a : Byte) (s : State) : State := { s with sel := some a }

/-- `RegSelect(a)` (R218). -/
def regSelect (a : Byte) : Op := inOrder [writeFramed [Config.cmdSelect, a], act (noteSelect a)]

/-- `RegWrite(a, d)` (R219), the data byte being a parameter of the machine (R96). -/
def regWrite (a : Byte) (d : RegData → Byte) : Op := fun s =>
  inOrder [regSelect a, writeFramed [Config.cmdWrite, d s.par.v]] s

/-- `RegRead(a)` (R221); the value stands in the working register `last`. -/
def regRead (a : Byte) : Op := fun s =>
  inOrder [regSelect a, readFramed [Config.cmdReadRsp, s.par.rdFill]] s

/-- `IdRead()` (R222); the value stands in the working register `last`. -/
def idRead : Op := fun s => readFramed [Config.cmdReadReq, s.par.idArg] s

/-! ## The end of an operation, `power_off`, and the fault path -/

/-- `return` (R12, R83): `RUN <- 0`, no position, and the working registers at unspecified values (R29, U19). -/
def ret (s : State) : State :=
  { s with run := false, pos := .idle, work := freeWork s.returns, returns := s.returns + 1 }

/-- An operation that has gone on to its end returns; one that has left the written order stays as it is. -/
def Flow.finish : Flow → State
  | .on s => ret s
  | .off s => s

/-- One discharge pulse of `power_off` (R160). -/
def dischargePulse (k : Nat) (s : State) : State :=
  delayMs 10 (pinWrite .discharge false (delayMs 10 (pinWrite .discharge true
    (setWork (fun w => { w with pulse := k }) s))))

/-- `power_off()` (R160): it tests nothing, waits on nothing, and always ends. -/
def powerOff (s : State) : State :=
  let s := pinWrite .border false (pinWrite .panelOn false (pinWrite .reset false s))
  let s := pinWrite .cs false (busDisable s)
  let s := (List.range Config.dischargePulses).foldl (fun s k => dischargePulse k s) s
  setPsm .poweredDown s

/-- `raise c` (R236): the fault path, the one way a verification failure ends an operation. It saves nothing (R237):
the status is written first, then `power_off` runs and the operation returns. -/
def raise (c : Status) : Op := fun s => .off (ret (powerOff (setPsm .faulted (setStatus c s))))

/-- A verification: go on if it holds, else raise (R146, R147, R151, R155). -/
def verify (passes : State → Bool) (c : Status) : Op := fun s =>
  if passes s then .on s else raise c s

end Sys2Proof.Machine
end

