-- ==== Sys2Proof/Machine/Compensation.lean ====
section
/-! DEFINITION. The CompensationSelector: SETFACTOR (R130 to R135). -/

namespace Sys2Proof.Machine

/-- `TOFF <- offset(temperature)` (R131). -/
def selectBand (s : State) : State := { s with toff := bandOffset s.work.temperature }

/-- SETFACTOR, `OP = 3` (R131): no port event, `ST` not written. -/
def execSetFactor (s : State) : Host.Outcome State Fault Refusal := .next (ret (selectBand (accept s)))

end Sys2Proof.Machine
end

