-- ==== Sys2Proof/Machine/Flags.lean ====
section
/-! DEFINITION. EPD-SEQ has no condition codes (R39). This file holds what stands in their place: the word a host
reads in `STATUS` (R23) and the tests that steer control flow (R39, R98, R146, R147, R151, R155, R191). -/

namespace Sys2Proof.Machine

/-- The word in `STATUS`: `ST` in bits 1:0, `RUN` in bit 4, every other bit 0 (R23). -/
def State.statusWord (s : State) : Word := s.st.code ||| (if s.run then 0x10#32 else 0#32)

/-- The ID passes: its low nibble is `COG_ID`, the high nibble is ignored (R146). -/
def idPasses (id : Byte) : Bool := id &&& 0x0F == Config.cogId

/-- The panel is whole: the `BROKEN_MASK` bit is set (R147). -/
def panelPasses (status : Byte) : Bool := status &&& Config.brokenMask != 0

/-- The charge pump is ready: a `DCDC_MASK` bit is set (R151, R155). -/
def dcdcReady (mask status : Byte) : Bool := status &&& mask != 0

/-- The timed loop has run long enough: `acc >= minDurationMs` (R191). -/
def timeReached (acc minMs : Nat) : Bool := minMs ≤ acc

end Sys2Proof.Machine
end

