-- ==== Sys2Proof/Machine/LineEncoder.lean ====
section
/-! DEFINITION. The Line Encoder: LINE, which is also the routine every frame operation calls (R170 to R183). -/

namespace Sys2Proof.Machine

/-- The byte counter `b` of LINE's loops (R29). -/
def setByte (b : Nat) : Op := act (setWork fun w => { w with b := b })

/-- One pixel byte: from the frame buffer through an encoder, or the fixed value verbatim (R171, R173). -/
def pixelByte (a : LineArgs) (encode : Byte → Stage → Byte) (off : Nat) : Op := fun s =>
  if a.usesData then
    xferW (encode (memByte (byteAddr a.data off s.par.addrBits) s) a.stage)
      (memRead (byteAddr a.data off s.par.addrBits) s)
  else xferW a.value s

/-- The odd-pixel bytes: `b` from `bpl` down to 1, offset `b - 1` (R171, R174, R176). -/
def oddBytes (a : LineArgs) : Op := fun s =>
  forEach (fun off => inOrder [setByte (off + 1), pixelByte a odd off]) (List.range s.bpl).reverse s

/-- The scan-activation bytes, index 0 first (R171, R179). -/
def scanBytes (a : LineArgs) : Op := fun s =>
  forEach (fun b => inOrder [setByte b, xferW (scanByte s.lines a.index b)]) (List.range s.bps) s

/-- The even-pixel bytes: offsets 0 up to `bpl - 1` (R171, R174, R177). -/
def evenBytes (a : LineArgs) : Op := fun s =>
  forEach (fun off => inOrder [setByte off, pixelByte a even off]) (List.range s.bpl) s

/-- LINE's data frame (R90, R171). -/
def lineFrame (a : LineArgs) : Op :=
  inOrder
    [act (pinWrite .cs false),
     xferW Config.cmdWrite,
     xferW a.border,
     oddBytes a,
     act (fun s => setWork (fun w => { w with p := scanPos s.lines a.index }) s),
     scanBytes a,
     evenBytes a,
     act (pinWrite .cs true)]

/-- LINE (R171): bus on, select 0x0A, the data frame, the commit, bus off. -/
def lineOp (a : LineArgs) : Op :=
  inOrder [act busEnable, regSelect Config.aData, lineFrame a, regWrite Config.aOe RegData.oeCommit, act busDisable]

/-- LINE, `OP = 7` (R171). -/
def execLine (s : State) : Host.Outcome State Fault Refusal :=
  .next (lineOp (accept s).work.lineArgs (accept s)).finish

end Sys2Proof.Machine
end

