-- ==== Sys2Proof/Machine/Frames.lean ====
section
/-! DEFINITION. The Frame Sequencer: the fixed-value pass, the timed loop of stage 2, and the sweep of stages 1 and 3
(R190 to R203). -/

namespace Sys2Proof.Machine

/-! ## Fixed-value passes (R190) -/

/-- `FramePass(v)` (R190). -/
def framePass (v : Byte) : Op := fun s =>
  forEach
    (fun i => inOrder
      [act (setWork fun w => { w with lineCtr := i }), lineOp (fixedLine i v .normal s.par.borderDefault)])
    (passLines s.par.passOrder s.lines) s

/-! ## The timed loop (R191 to R193) -/

/-- `acc = acc + elapsed(t0, t1)` (R191, R192). -/
def addElapsed (s : State) : State :=
  setWork (fun w => { w with acc := w.acc + elapsed s.par.clockBits w.t0 w.t1 }) s

/-- One round of the timed loop: the clock is read immediately before the first LINE and after the last (R191). -/
def timedPass (v : Byte) : Op :=
  inOrder
    [act (nowMs fun t w => { w with t0 := t }),
     framePass v,
     act (nowMs fun t w => { w with t1 := t }),
     act addElapsed]

/-- The `repeat ... until acc >= minDurationMs` of `frame_fixed_timed` (R191). A step runs the passes whose samples
the script holds and one more; if the time is not reached then, the step ends inside the loop, `RUN` at 1 and the
position at `here`, and the next step goes on from there (R193, R262; log entry 4). -/
def timedLoop (here : Pos) (v : Byte) (minMs : Nat) : Nat → Op
  | 0 => fun s => .off { s with run := true, pos := here }
  | fuel + 1 => fun s =>
    (timedPass v s).andThen fun s =>
      if timeReached s.work.acc minMs then .on s else timedLoop here v minMs fuel s

/-- How many passes one step may run: those whose samples are scripted, and one more. -/
def passFuel (s : State) : Nat := (s.env.clock.length - s.clockSeen) / 2 + 1

/-- `acc = 0` (R191). -/
def clearAcc (s : State) : State := setWork (fun w => { w with acc := 0 }) s

/-- The timed halves still to run: for each, `frame_fixed_timed(v, minDurationMs)` (R191, R195). -/
def timedHalves : List (Byte × Nat) → Op
  | [] => .on
  | (v, minMs) :: rest => fun s =>
    (timedLoop (.timed ((v, minMs) :: rest)) v minMs (passFuel s) (clearAcc s)).andThen (timedHalves rest)

/-- The halves of FRAME_STAGE2, in order (R195). -/
def stage2Halves (b : Band) : List (Byte × Nat) :=
  (List.replicate b.stage2Repeat.toNat [(0xFF#8, b.stage2Time1.toNat), (0xAA#8, b.stage2Time2.toNat)]).flatten

/-- FRAME_STAGE2, `OP = 6` (R195). -/
def execFrameStage2 (s : State) : Host.Outcome State Fault Refusal :=
  .next (timedHalves (stage2Halves s.band) (accept s)).finish

/-- Going on from inside a timed loop: `acc` is kept, the halves after this one follow. -/
def resumeTimed (todo : List (Byte × Nat)) : Op := fun s =>
  match todo with
  | [] => .on s
  | (v, minMs) :: rest =>
    (timedLoop (.timed todo) v minMs (passFuel s) s).andThen (timedHalves rest)

/-! ## The sweep of stages 1 and 3 (R196 to R203) -/

/-- The lines a sweep sends: `emitF`, `emitZ`, `emitV` of R198 and R199, the last given by `real`. -/
def Visit.lineArgs (real : Nat → LineArgs) (border : Byte) : Visit → LineArgs
  | .flush => fixedLine Config.sentinel 0 .normal border
  | .settle q => fixedLine q 0 .normal border
  | .real q => real q

/-- The sweep's counters in the working registers (R29). -/
def setSpot (q : Spot) : Op :=
  act (setWork fun w => { w with pass := q.n, blockStart := q.line, off := q.off, spot := q.pos })

/-- One visit: one LINE (R197). -/
def visitOp (real : Nat → LineArgs) (border : Byte) (rep total : Nat) (q : Spot) : Op :=
  inOrder [setSpot q, lineOp ((q.visit rep total).lineArgs real border)]

/-- One block of a sweep whose step is 0: `line = -block`, so that every position is negative (R197, R203). -/
def zeroStepBlock (block : Nat) : Op := fun s =>
  forEach
    (fun off => visitOp (fun _ => fixedLine 0 0 .normal 0) s.par.borderDefault 0 0
      { n := 0, line := -(block : Int), off := off })
    (List.range block) s

/-- A sweep whose step is 0 does not end: a step sends one block and stands again before the next (R203, R263; log
entry 4). -/
def zeroStepRound (block : Nat) : Op := fun s =>
  (zeroStepBlock block s).andThen fun s => .off { s with run := true, pos := .zeroStep block }

/-- `Sweep` (R197), the real lines given by `real`. -/
def sweepOp (q : SweepParams) (real : Nat → LineArgs) : Op := fun s =>
  if q.endless s.lines then zeroStepRound q.block s
  else if q.step = 0 then .on s
  else forEach (visitOp real s.par.borderDefault q.rep s.lines) (q.spots s.lines) s

/-- FRAME_FIXED_13, `OP = 4` (R198): real lines carry the fixed value. -/
def execFrameFixed13 (s : State) : Host.Outcome State Fault Refusal :=
  let w := (accept s).work
  .next (sweepOp (sweepParams s.band w.stage)
    (fun q => fixedLine q w.value w.stage s.par.borderDefault) (accept s)).finish

/-- FRAME_DATA_13, `OP = 5` (R199): real lines carry the image's scanlines. -/
def execFrameData13 (s : State) : Host.Outcome State Fault Refusal :=
  let w := (accept s).work
  .next (sweepOp (sweepParams s.band w.stage)
    (fun q => imageLine w.base s.bpl s.par.addrBits q w.stage s.par.borderDefault) (accept s)).finish

end Sys2Proof.Machine
end

