-- ==== Sys2Proof/Machine/Power.lean ====
section
/-! DEFINITION. The Power Sequencer: BEGIN and END (R140 to R156). -/

namespace Sys2Proof.Machine

/-! ## BEGIN (R141 to R152) -/

/-- Step 1: the idle pattern, bus on (R142). -/
def beginStep1 : Op :=
  inOrder
    [act (pinWrite .reset false), act (pinWrite .panelOn false), act (pinWrite .discharge false),
     act (pinWrite .border false), act (pinWrite .cs false), act busEnable]

/-- Step 2: the power-on pulse sequence (R143). -/
def beginStep2 : Op :=
  inOrder
    [act (delayMs 5),
     act (pinWrite .panelOn true), act (delayMs 10),
     act (pinWrite .reset true), act (pinWrite .border true), act (pinWrite .cs true),
     act (delayMs 5),
     act (pinWrite .reset false), act (delayMs 5),
     act (pinWrite .reset true), act (delayMs 5)]

/-- Step 3: the unbounded ready wait (R145). -/
def beginStep3 : Op := fun s => waitWhileBusy true [.delayUs s.par.pollUs] s

/-- Step 4: the controller ID, read twice, the first discarded (R146). -/
def beginStep4 : Op :=
  inOrder [idRead, idRead, verify (fun s => idPasses s.work.last) .unsupportedController]

/-- Step 5: panel integrity (R147). -/
def beginStep5 : Op :=
  inOrder
    [regWrite Config.aOe RegData.oeDisable,
     regRead Config.aStat,
     verify (fun s => panelPasses s.work.last) .panelBroken]

/-- Step 6: power saving, channel select, oscillator, power, Vcom, latch (R148, R149, R150). -/
def beginStep6 : Op :=
  inOrder
    [regWrite Config.aPsave RegData.psave,
     regSelect Config.aChsel,
     (fun s => writeFramed s.profile.channelSelect s),
     regWrite Config.aOsc RegData.oscOn,
     regWrite Config.aPwr1 RegData.pwr1,
     regWrite Config.aVcom RegData.vcom,
     regWrite Config.aPwr RegData.pwr2,
     regWrite Config.aLatch RegData.latchOn,
     regWrite Config.aLatch RegData.latchOff]

/-- One charge-pump attempt: three writes with their delays, then one status read (R151). -/
def pumpAttempt (i : Nat) : Op :=
  inOrder
    [act (setWork fun w => { w with attempt := i }),
     regWrite Config.aCp RegData.cpPos, act (delayMs 240),
     regWrite Config.aCp RegData.cpNeg, act (delayMs 40),
     regWrite Config.aCp RegData.cpVcom, act (delayMs 40),
     regRead Config.aStat,
     act (fun s => setWork (fun w => { w with dcOk := dcdcReady s.par.dcdcMask w.last }) s)]

/-- The attempts in turn; the first that reports ready breaks the loop (R151). -/
def pumpLoop : List Nat → Op
  | [] => .on
  | i :: rest => fun s =>
    (pumpAttempt i s).andThen fun s => if s.work.dcOk then .on s else pumpLoop rest s

/-- Step 7: up to four attempts (R151). -/
def beginStep7 : Op :=
  inOrder
    [act (setWork fun w => { w with dcOk := false }),
     pumpLoop (List.range Config.retryMax),
     verify (fun s => s.work.dcOk) .powerFailure]

/-- Step 8: output enable off, bus off (R152). -/
def beginStep8 : Op := inOrder [regWrite Config.aOe RegData.oeDisable, act busDisable]

/-- BEGIN's steps in order (R141). -/
def beginOp : Op :=
  inOrder
    [act (setStatus .ok), act (setPsm .poweringUp),
     beginStep1, beginStep2, beginStep3,
     act (setPsm .verifying),
     beginStep4, beginStep5, beginStep6, beginStep7, beginStep8,
     act (setPsm .ready)]

/-- BEGIN, `OP = 1` (R141). -/
def execBegin (s : State) : Host.Outcome State Fault Refusal := .next (beginOp (accept s)).finish

/-! ## END (R153 to R156) -/

/-- The flush: a border pulse on the 2.7 inch panel, three fixed-value passes on the others (R154). -/
def endFlush : Op := fun s =>
  if s.size = .s270 then
    inOrder
      [act (delayMs 25), act (pinWrite .border false), act (delayMs 250), act (pinWrite .border true)] s
  else
    inOrder
      [framePass 0xFF, act (delayMs 40), framePass 0xAA, act (delayMs 200), framePass 0x00, act (delayMs 25)] s

/-- The re-verification: bus on, one status read, no retry (R153, R155). -/
def endRecheck : Op :=
  inOrder
    [act busEnable, regRead Config.aStat,
     verify (fun s => dcdcReady s.par.dcdcMask s.work.last) .powerFailure]

/-- The teardown writes (R156). -/
def endTeardown : Op :=
  inOrder
    [regWrite Config.aLatch RegData.latchOn,
     regWrite Config.aLatch RegData.latchOff,
     regWrite Config.aOe RegData.oeOffHp,
     regWrite Config.aCp RegData.cpOff1,
     regWrite Config.aCp RegData.cpOff2,
     regWrite Config.aCp RegData.cpOff3,
     regWrite Config.aOsc RegData.oscOff,
     regWrite Config.aPwr RegData.dischOn,
     act (delayMs 120),
     regWrite Config.aPwr RegData.dischOff]

/-- END's parts in order (R153). -/
def endOp : Op := inOrder [endFlush, endRecheck, endTeardown, act powerOff]

/-- END, `OP = 2` (R153). -/
def execEnd (s : State) : Host.Outcome State Fault Refusal := .next (endOp (accept s)).finish

end Sys2Proof.Machine
end

