-- ==== Sys2Proof/Machine/Wire.lean ====
section
/-! DEFINITION. The wire rows: the framing engine emits one chip-select frame (R87 to R90, R215 to R222). A frame is
part of a running operation, so it neither starts nor returns one. -/

namespace Sys2Proof.Machine

/-- WIRE.SELECT (R87, R218). -/
def execWireSelect (a : Byte) (s : State) : Host.Outcome State Fault Refusal := .next (regSelect a s).state

/-- WIRE.WRITE (R88, R219, R220). -/
def execWireWrite (d : Byte) (more : List Byte) (s : State) : Host.Outcome State Fault Refusal :=
  .next (writeFramed (Config.cmdWrite :: d :: more) s).state

/-- WIRE.LINEDATA (R90, R220). -/
def execWireLineData (b : Byte) (odd scan even : List Byte) (s : State) : Host.Outcome State Fault Refusal :=
  .next (writeFramed (Config.cmdWrite :: b :: (odd ++ scan ++ even)) s).state

/-- WIRE.IDREAD (R89, R222). -/
def execWireIdRead (i : Byte) (s : State) : Host.Outcome State Fault Refusal :=
  .next (readFramed [Config.cmdReadReq, i] s).state

/-- WIRE.REGREAD (R89, R221). -/
def execWireRegRead (f : Byte) (s : State) : Host.Outcome State Fault Refusal :=
  .next (readFramed [Config.cmdReadRsp, f] s).state

end Sys2Proof.Machine
end

