-- ==== Sys2Proof/Machine/Dispatch.lean ====
section
/-! DEFINITION. One arm per row of spec/opcode_table.json. -/

namespace Sys2Proof.Machine

def exec (i : Instr) (s : State) : Host.Outcome State Fault Refusal :=
  match i with
  | .beginCmd => Sys2Proof.Machine.execBegin s
  | .endCmd => Sys2Proof.Machine.execEnd s
  | .setFactor => Sys2Proof.Machine.execSetFactor s
  | .frameFixed13 => Sys2Proof.Machine.execFrameFixed13 s
  | .frameData13 => Sys2Proof.Machine.execFrameData13 s
  | .frameStage2 => Sys2Proof.Machine.execFrameStage2 s
  | .line => Sys2Proof.Machine.execLine s
  | .wireSelect a => Sys2Proof.Machine.execWireSelect a s
  | .wireWrite d more => Sys2Proof.Machine.execWireWrite d more s
  | .wireLineData b odd scan even => Sys2Proof.Machine.execWireLineData b odd scan even s
  | .wireIdRead arg => Sys2Proof.Machine.execWireIdRead arg s
  | .wireRegRead f => Sys2Proof.Machine.execWireRegRead f s

end Sys2Proof.Machine
end

