-- ==== Sys2Proof/Machine/HostPort.lean ====
section
/-! DEFINITION. The host's port (R22 to R24, R35, R66, R83, R84), reset (R250), and where the sequencer goes on from a
position it holds (R28). -/

namespace Sys2Proof.Machine

namespace HostPort

/-- What a read of the register at an offset returns: `CMD` reads 0, offsets 0x18 and above read 0 (R22 to R24, R35). -/
def readReg (s : State) (offset : Nat) : Word :=
  if offset = 0x04 then s.statusWord
  else if offset = 0x08 then s.args.line
  else if offset = 0x0C then s.args.pix
  else if offset = 0x10 then s.args.temp
  else if offset = 0x14 then s.args.fb
  else 0

/-- What a write of an argument register stores; other offsets ignore it (R23, R24, R35). -/
def writeArg (x : Args) (offset : Nat) (v : Word) : Args :=
  if offset = 0x08 then { x with line := v }
  else if offset = 0x0C then { x with pix := v }
  else if offset = 0x10 then { x with temp := v }
  else if offset = 0x14 then { x with fb := v }
  else x

/-- A 32-bit access at a multiple of 4: any other is outside the host contract (R35, R66, U3). -/
def accessOk (width offset : Nat) : Bool := width == 32 && offset % 4 == 0

/-- A write of `CMD`: accepted when `RUN = 0` and the word encodes a command, which then runs; ignored otherwise
(R22, R83, R84; log entry 7). -/
def writeCmd (w : Word) (s : State) : Host.Outcome State Fault Refusal :=
  if s.run then .next s
  else
    match decodeCmd w with
    | .ok i => exec i s
    | .error _ => .next s

/-- A host register write (R22 to R24, R35). -/
def write (width offset : Nat) (v : Word) (s : State) : Host.Outcome State Fault Refusal :=
  if accessOk width offset then
    if offset = 0 then writeCmd v s else .next { s with args := writeArg s.args offset v }
  else .refused (.hostAccess width offset)

/-- A host register read: no side effect but the value on the port (R67 says so of `STATUS`). R24 gives the reads of the
argument registers for `RUN = 0`: that one while `RUN = 1` returns the value stored there too is the model's choice
(DEDUCED, log entry 7). -/
def read (width offset : Nat) (s : State) : Host.Outcome State Fault Refusal :=
  if accessOk width offset then .next { s with hostRd := readReg s offset }
  else .refused (.hostAccess width offset)

/-- The host fills a byte of its frame buffer, between operations (R61, R62, R266, U18). -/
def poke (addr : Nat) (v : Byte) (s : State) : Host.Outcome State Fault Refusal :=
  if s.run then .refused .bufferInUse
  else if addr < 2 ^ s.par.addrBits then .next { s with mem := s.mem.store addr v }
  else .fault (.noSuchAddress addr)

/-- Every row of `PROFILE` satisfies the invariants that a model checks of any table it is given (R122). -/
def tableOk (p : Params) : Bool := (p.profile .s144).wf && (p.profile .s200).wf && (p.profile .s270).wf

/-- Reset (R40, R250), also at a position an operation holds, which it abandons at once (R251, U16; log entry 10). The
whole profile table is checked as it is loaded (R122, U12). What belongs to the environment stays, and no event is emitted. -/
def reset (s : State) : Host.Outcome State Fault Refusal :=
  if tableOk s.par then
    .next { s with
      size := resolveSize s.sizeSel
      toff := bandOffset Config.defaultTemp
      st := .ok
      run := false
      args := Args.zero
      psm := .uninitialized
      pins := Pins.low
      busEn := false
      pos := .idle
      work := Work.zero
      rxcap := Vector.replicate 4 0#8 }
  else .refused .profileTable

/-- One host action other than a WAIT that has to wait (R102). -/
def perform (a : HostAct) (s : State) : Host.Outcome State Fault Refusal :=
  match a with
  | .write width offset v => write width offset v s
  | .read width offset => read width offset s
  | .wait => read 32 0x04 s
  | .poke addr v => poke addr v s
  | .strap code => .next { s with sizeSel := code }
  | .reset => reset s

end HostPort

namespace Sequencer

/-- The context in which the state reads a wire frame (R90). -/
def wireCtx (s : State) : WireCtx := WireCtx.ofProfile s.sel s.profile

/-- One more sample of a BUSY that is never 0 (R145, R214, R261). -/
def sampleBusy (polled : Bool) (s : State) : State :=
  if polled then emit (.busy true) (delayUs s.par.pollUs s) else emit (.busy true) s

/-- The next frame to send: it is decoded in its context and run (R86 to R90). -/
def sendFrame (frame : List Byte) (rest : List (List Byte)) (s : State) : Host.Outcome State Fault Refusal :=
  match decodeFrame (wireCtx s) frame with
  | .ok i => exec i { s with pos := .sending rest }
  | .error _ => .refused .reservedFrame

/-- The sequencer goes on from the position it holds (R28). -/
def goOn (s : State) : Host.Outcome State Fault Refusal :=
  match s.pos with
  | .idle => .next (ret s)
  | .busyWait polled => .next (sampleBusy polled s)
  | .timed todo => .next (resumeTimed todo s).finish
  | .zeroStep block => .next (zeroStepRound block s).finish
  | .sending [] => .next (ret s)
  | .sending (frame :: rest) => sendFrame frame rest s

/-- The sequencer's turn: idle with `RUN = 0` it holds everything (R249). -/
def turn (s : State) : Host.Outcome State Fault Refusal := if s.run then goOn s else .next s

end Sequencer

/-- What a step does when the next host action is `a`: a WAIT with `RUN = 1` waits, and the sequencer goes on; any
other action is performed and leaves the queue (R70, R102). An action, a reset among them, falls between operations or
at a position an operation holds, never inside a step: R251 does not say at which points of an operation a reset can
fall, and one in the middle of an operation that returns is left out (DESIGN CHOICE, log entries 10 and 17). -/
def stepAct (a : HostAct) (rest : List HostAct) (s : State) : Host.Outcome State Fault Refusal :=
  if a = .wait ∧ s.run then Sequencer.turn s else HostPort.perform a { s with hostQ := rest }

/-- A table word placed where a step takes its next instruction: a command as the host's next write of `CMD`, with the
sequencer idle (R80, R83); a frame as the one frame the sequencer has still to send, the host waiting (R87 to R90). A
0x72 frame is read by the register last selected, so that register is made the one the table's reading takes, and for
a whole line data frame the panel too (log entry 8). -/
def placeWord (nbits w : Nat) (s : State) : State :=
  match tableCode nbits w with
  | .cmd word => { s with run := false, pos := .idle, hostQ := .write 32 0 word :: s.hostQ }
  | .frame bytes =>
    { s with
      run := true
      pos := .sending [bytes]
      sel := if bytes.head? = some Config.cmdWrite then (tableCtx nbits).sel else s.sel
      size := if (tableCtx nbits).selectsData then .s200 else s.size
      hostQ := .wait :: s.hostQ }

end Sys2Proof.Machine
end

