-- ==== Sys2Proof/Machine/Step.lean ====
section
/-! DEFINITION. One step: the host's next action, or the sequencer's turn. -/

namespace Sys2Proof.Machine

/-- One step of the machine (R28, R70, R83, R102). -/
def step (s : State) : Host.Outcome State Fault Refusal :=
  match s.hostQ with
  | [] => Sequencer.turn s
  | a :: rest => stepAct a rest s

/-- A word of the opcode table stored where `step` takes its next instruction. -/
def State.withFetchWord (s : State) (nbits w : Nat) : State := placeWord nbits w s

end Sys2Proof.Machine
end

