-- ==== Sys2Proof/Safety.lean ====
section
/-! DEFINITION. The terms the claims use: the environment's liveness (R261), what an operation leaves as it was, the
order of port events written out as the spec's traces write it (R12, 95_test_vectors.md section 0), the counts of an
operation's waits and transfers (R175), and the invariant of the machine. -/

namespace Sys2Proof.Machine

/-! ## Liveness -/

/-- Each of the next `n` waits for BUSY ends: the liveness assumption of R261, for as many waits as an operation has. -/
abbrev Responsive (s : State) (n : Nat) : Prop := ∀ k < n, (s.env.waitAt (s.waitSeen + k)).isSome = true

/-- The byte the controller answers to the transfer that is `k` transfers ahead (R9). -/
def State.answer (s : State) (k : Nat) : Byte := s.env.rxAt (s.rxSeen + k)

/-! ## What is left as it was -/

/-- What no instruction writes: the configuration, the argument registers, the frame buffer, and what belongs to the
host and the environment (R21, R24, R41, R64). -/
structure Untouched (s t : State) : Prop where
  par : t.par = s.par
  sizeSel : t.sizeSel = s.sizeSel
  size : t.size = s.size
  args : t.args = s.args
  mem : t.mem = s.mem
  env : t.env = s.env
  hostQ : t.hostQ = s.hostQ
  hostRd : t.hostRd = s.hostRd

/-- What the pixel operations leave as it was as well: `ST`, `TOFF`, `PSM`, the capture bytes, and every pin but CS
(R182, R195, R198, R199). -/
structure Drawn (s t : State) : Prop extends Untouched s t where
  st : t.st = s.st
  toff : t.toff = s.toff
  psm : t.psm = s.psm
  rxcap : t.rxcap = s.rxcap
  reset : t.pins.reset = s.pins.reset
  panelOn : t.pins.panelOn = s.pins.panelOn
  discharge : t.pins.discharge = s.pins.discharge
  border : t.pins.border = s.pins.border

/-- The operation has returned: `RUN = 0` and no position (R83). -/
structure Returned (s t : State) : Prop where
  run : t.run = false
  pos : t.pos = .idle
  returns : t.returns = s.returns + 1

/-! ## Traces -/

/-- An event as the outline of a trace keeps it: the samples of BUSY and the reads of the frame buffer are left out,
the environment's bytes and clock samples are not shown. -/
def Event.outlined : Event → Option Event
  | .pin p v => some (.pin p v)
  | .busy _ => none
  | .xfer b _ => some (.xfer b 0)
  | .delayMs n => some (.delayMs n)
  | .delayUs n => some (.delayUs n)
  | .clock _ => some (.clock 0)
  | .mem _ _ => none
  | .bus on => some (.bus on)
  | .status c => some (.status c)

/-- The outline of a trace. -/
def outline (evs : List Event) : List Event := evs.filterMap Event.outlined

/-- The addresses a trace reads in the frame buffer, in order. -/
def memAddrs (evs : List Event) : List Nat :=
  evs.filterMap fun e => match e with
    | .mem a _ => some a
    | _ => none

/-- From `s` to `t` the trace has grown by events with this outline. -/
def Traced (s t : State) (o : List Event) : Prop := ∃ evs, t.trace = s.trace ++ evs ∧ outline evs = o

/-- `b` on the wire, whatever is answered. -/
def sent (b : Byte) : Event := .xfer b 0

/-- One chip-select frame (R215). -/
def frameTr (bytes : List Byte) : List Event := .pin .cs false :: (bytes.map sent ++ [.pin .cs true])

/-- `EN` (R211). -/
def enableTr (us : Nat) : List Event := [.bus true, sent 0, sent 0, .delayUs us]

/-- `DIS` (R212). -/
def disableTr (us : Nat) : List Event := [sent 0, sent 0, .delayUs us, .bus false]

/-- `[70 a] [72 d]` (R219). -/
def writeTr (a d : Byte) : List Event := frameTr [0x70, a] ++ frameTr [0x72, d]

/-- `[70 a] [73 fill]` (R221). -/
def readTr (a fill : Byte) : List Event := frameTr [0x70, a] ++ frameTr [0x73, fill]

/-- `POFF` (R160). -/
def powerOffTr (us : Nat) : List Event :=
  [.pin .reset false, .pin .panelOn false, .pin .border false] ++ disableTr us ++ [.pin .cs false]
    ++ (List.replicate 10 [.pin .discharge true, .delayMs 10, .pin .discharge false, .delayMs 10]).flatten

/-- The fault path (R236). -/
def raiseTr (c : Status) (us : Nat) : List Event := .status c :: powerOffTr us

/-- The pixel byte of a line at an offset, by an encoder (R171, R173). -/
def linePixel (s : State) (a : LineArgs) (encode : Byte → Stage → Byte) (off : Nat) : Byte :=
  if a.usesData then encode (s.mem.byte ((a.data + off) % 2 ^ s.par.addrBits)) a.stage else a.value

/-- The bytes of a line's data frame (R90). -/
def lineBytes (s : State) (a : LineArgs) : List Byte :=
  0x72 :: a.border ::
    ((List.range s.bpl).reverse.map (linePixel s a odd)
      ++ (List.range s.bps).map (scanByte s.lines a.index)
      ++ (List.range s.bpl).map (linePixel s a even))

/-- The outline of one LINE (R171). -/
def lineTr (s : State) (a : LineArgs) : List Event :=
  enableTr s.par.busSettleUs ++ frameTr [0x70, 0x0A] ++ frameTr (lineBytes s a)
    ++ writeTr 0x02 s.par.v.oeCommit ++ disableTr s.par.busSettleUs

/-- The buffer addresses one LINE reads, in order (R174). -/
def lineReads (s : State) (a : LineArgs) : List Nat :=
  if a.usesData then
    ((List.range s.bpl).reverse ++ List.range s.bpl).map fun off => (a.data + off) % 2 ^ s.par.addrBits
  else []

/-- The transfers of one LINE (R175). -/
def State.lineXfers (s : State) : Nat := 12 + 2 * s.bpl + s.bps

/-- The waits of one LINE (R175). -/
def State.lineWaits (s : State) : Nat := 8 + 2 * s.bpl + s.bps

/-- The outline of one fixed-value pass (R190). -/
def passTr (s : State) (v : Byte) : List Event :=
  (passLines s.par.passOrder s.lines).flatMap fun i => lineTr s (fixedLine i v .normal s.par.borderDefault)

/-- The outline of a sweep whose real lines are given (R197). -/
def sweepTr (s : State) (q : SweepParams) (real : Nat → LineArgs) : List Event :=
  (q.visits s.lines).flatMap fun v => lineTr s (v.lineArgs real s.par.borderDefault)

/-- BEGIN steps 1 to 4 (R142, R143, R145, R146). -/
def beginTr4 (s : State) : List Event :=
  [.status .ok,
   .pin .reset false, .pin .panelOn false, .pin .discharge false, .pin .border false, .pin .cs false]
    ++ enableTr s.par.busSettleUs
    ++ [.delayMs 5, .pin .panelOn true, .delayMs 10, .pin .reset true, .pin .border true, .pin .cs true, .delayMs 5,
        .pin .reset false, .delayMs 5, .pin .reset true, .delayMs 5]
    ++ (List.replicate ((s.env.waitAt s.waitSeen).getD 0) (.delayUs s.par.pollUs))
    ++ frameTr [0x71, s.par.idArg] ++ frameTr [0x71, s.par.idArg]

/-- BEGIN steps 1 to 5 (R147). -/
def beginTr5 (s : State) : List Event :=
  beginTr4 s ++ writeTr 0x02 s.par.v.oeDisable ++ readTr 0x0F s.par.rdFill

/-- BEGIN steps 1 to 6 (R148, R149, R150). -/
def beginTr6 (s : State) : List Event :=
  beginTr5 s
    ++ writeTr 0x0B s.par.v.psave ++ frameTr [0x70, 0x00] ++ frameTr s.profile.channelSelect
    ++ writeTr 0x07 s.par.v.oscOn ++ writeTr 0x08 s.par.v.pwr1 ++ writeTr 0x09 s.par.v.vcom
    ++ writeTr 0x04 s.par.v.pwr2 ++ writeTr 0x03 s.par.v.latchOn ++ writeTr 0x03 s.par.v.latchOff

/-- One charge-pump attempt (R151). -/
def attemptTr (s : State) : List Event :=
  writeTr 0x05 s.par.v.cpPos ++ [.delayMs 240] ++ writeTr 0x05 s.par.v.cpNeg ++ [.delayMs 40]
    ++ writeTr 0x05 s.par.v.cpVcom ++ [.delayMs 40] ++ readTr 0x0F s.par.rdFill

/-- BEGIN steps 1 to 7 with `n` attempts made (R151). -/
def beginTr7 (s : State) (n : Nat) : List Event := beginTr6 s ++ (List.replicate n (attemptTr s)).flatten

/-- The transfer, counted from BEGIN's first, whose answer is the status byte of attempt `j` (R151). -/
def State.pumpAnswer (s : State) (j : Nat) : Byte := s.answer (59 + s.profile.channelSelect.length + 16 * j)

/-- END's flush (R154). -/
def flushTr (s : State) : List Event :=
  if s.size = .s270 then [.delayMs 25, .pin .border false, .delayMs 250, .pin .border true]
  else passTr s 0xFF ++ [.delayMs 40] ++ passTr s 0xAA ++ [.delayMs 200] ++ passTr s 0x00 ++ [.delayMs 25]

/-- The LINEs of END's flush (R154). -/
def State.flushLines (s : State) : Nat := if s.size = .s270 then 0 else 3 * s.lines

/-- END's flush and re-verification (R155). -/
def endTr (s : State) : List Event :=
  flushTr s ++ enableTr s.par.busSettleUs ++ readTr 0x0F s.par.rdFill

/-- END's teardown (R156). -/
def teardownTr (s : State) : List Event :=
  writeTr 0x03 s.par.v.latchOn ++ writeTr 0x03 s.par.v.latchOff ++ writeTr 0x02 s.par.v.oeOffHp
    ++ writeTr 0x05 s.par.v.cpOff1 ++ writeTr 0x05 s.par.v.cpOff2 ++ writeTr 0x05 s.par.v.cpOff3
    ++ writeTr 0x07 s.par.v.oscOff ++ writeTr 0x04 s.par.v.dischOn ++ [.delayMs 120] ++ writeTr 0x04 s.par.v.dischOff

/-- The status byte END re-verifies (R155). -/
def State.endAnswer (s : State) : Byte := s.answer (s.flushLines * s.lineXfers + 5)

/-! ## The timed loop -/

/-- The time `n` passes measure when their clock samples are those from number `c` on (R191, R192). -/
def measured (s : State) (c : Nat) : Nat → Nat
  | 0 => 0
  | n + 1 =>
    measured s c n
      + elapsed s.par.clockBits (s.env.clockAt s.par.clockBits (c + 2 * n))
          (s.env.clockAt s.par.clockBits (c + 2 * n + 1))

/-- The most passes one step makes of a half whose clock samples are those from number `c` on: as many as are scripted,
and one more (log entry 4). -/
def stepPasses (s : State) (c : Nat) : Nat := (s.env.clock.length - c) / 2 + 1

/-- The passes each timed half makes within one step, when the first half starts from the accumulator `acc`, each later
one from 0, and the clock samples are those from number `c` on: the least number, at least one, whose measured time
reaches the half's minimum (R191), and no more than one step makes (log entry 4). -/
def PassPlan (s : State) (acc : Nat) : List (Byte × Nat) → Nat → List Nat → Prop
  | [], _, [] => True
  | (_, minMs) :: rest, c, n :: ns =>
    1 ≤ n ∧ n ≤ stepPasses s c ∧ minMs ≤ acc + measured s c n
      ∧ (∀ j, 1 ≤ j → j < n → acc + measured s c j < minMs) ∧ PassPlan s 0 rest (c + 2 * n) ns
  | _, _, _ => False

/-- The outline of the timed halves with the passes each makes (R191, R195). -/
def halvesTr (s : State) : List (Byte × Nat) → List Nat → List Event
  | (v, _) :: rest, n :: ns =>
    (List.replicate n (.clock 0 :: (passTr s v ++ [.clock 0]))).flatten ++ halvesTr s rest ns
  | _, _ => []

/-! ## The invariant -/

/-- The pins of a powered panel between operations (R144(a), R249). -/
def Pins.powered : Pins := { reset := true, panelOn := true, discharge := false, border := true, cs := true }

/-- `PSM` as it stands between operations (R140). -/
def Psm.settled (q : Psm) : Prop := q = .uninitialized ∨ q = .ready ∨ q = .poweredDown

/-- The positions that lie between lines: not those in a wait that never ends, nor the one no operation leaves. -/
def Pos.between : Pos → Bool
  | .idle => true
  | .busyWait _ => false
  | .timed _ => true
  | .zeroStep _ => true
  | .sending _ => false

/-- The invariant of the machine. The position `sending` is left out: no operation leaves it (log entry 8). -/
structure Inv (s : State) : Prop where
  /-- `RUN = 0` exactly when there is no position (R28). -/
  runPos : s.run = false ↔ s.pos = .idle
  /-- No frame is loaded from outside (log entry 8). -/
  notSending : ∀ fs, s.pos ≠ .sending fs
  /-- Outside a line, the bus is off (R213). -/
  busOff : s.pos.between = true → s.busEn = false
  /-- Outside a line, `PSM` is settled (R140). -/
  psmSettled : s.pos.between = true → s.psm.settled
  /-- A powered panel has its pins up (R144(a), R249). -/
  readyPins : s.pos.between = true → s.psm = .ready → s.pins = Pins.powered
  /-- While the panel is not powered every pin but CS is down: a LINE raises CS whatever `PSM` is (R161, R162, R171,
  R249). -/
  downPins : s.pos.between = true → s.psm ≠ .ready →
    s.pins.reset = false ∧ s.pins.panelOn = false ∧ s.pins.discharge = false ∧ s.pins.border = false
  /-- The frame buffer keeps its canonical form. -/
  memWf : s.mem.wf

end Sys2Proof.Machine
end

