-- ==== Sys2Proof/Certificates/Slice0/Obligations.lean ====
section
/-! DEFINITION. The statements about the model, for the provers. Each docstring names the rules of spec/ it rests on;
where a clause is the model's choice it names the log entry. -/

open Sys2Proof Sys2Proof.Machine

/-! ## Encoding -/

/-- R82, R87, R88, R89: words and frames written out from the encodings decode to the instructions they stand for. -/
def Obligations.DecodesSpecWords : Prop :=
  decodeCmd 0x00000001 = .ok .beginCmd ∧ decodeCmd 0x00000002 = .ok .endCmd ∧ decodeCmd 0x00000003 = .ok .setFactor
    ∧ decodeCmd 0x00000004 = .ok .frameFixed13 ∧ decodeCmd 0x00000005 = .ok .frameData13
    ∧ decodeCmd 0x00000006 = .ok .frameStage2 ∧ decodeCmd 0x00000007 = .ok .line
    ∧ decodeFrame ⟨none, 25, 24⟩ [0x70, 0x0A] = .ok (.wireSelect 0x0A)
    ∧ decodeFrame ⟨some 0x02, 25, 24⟩ [0x72, 0x40] = .ok (.wireWrite 0x40 [])
    ∧ decodeFrame ⟨some 0x0A, 1, 2⟩ [0x72, 0x00, 0xEB, 0x0C, 0x00, 0xEB]
        = .ok (.wireLineData 0x00 [0xEB] [0x0C, 0x00] [0xEB])
    ∧ decodeFrame ⟨none, 25, 24⟩ [0x71, 0x00] = .ok (.wireIdRead 0x00)
    ∧ decodeFrame ⟨some 0x0F, 25, 24⟩ [0x73, 0x00] = .ok (.wireRegRead 0x00)

/-- R80, R82, R86 to R90: decoding an encoded well-formed instruction gives it back, in every context. -/
def Obligations.DecodeOfEncodeIsIdentity : Prop :=
  ∀ (c : WireCtx) (i : Instr), i.wellFormed c = true → decode c (encode i) = .ok i

/-- R80, R82, R86 to R90: what decodes is well formed and is encoded by exactly the word or frame it came from, so
every word and frame has at most one meaning. -/
def Obligations.EncodeOfDecodeIsIdentity : Prop :=
  ∀ (c : WireCtx) (code : Code) (i : Instr), decode c code = .ok i → i.wellFormed c = true ∧ encode i = code

/-- R84(a): a command word is reserved unless it is one of 1 to 7, and a write of a reserved one leaves every piece of
state as it was but for the host's queue. The clause for a write while `RUN = 1` is the model's choice, log entry 7: it
goes on with the effect R84(b) gives the hardware, where U1 asks a model to refuse such a host. -/
def Obligations.ReservedCommandIgnored : Prop :=
  (∀ w : Word, (∃ i, decodeCmd w = .ok i) ↔ 1 ≤ w.toNat ∧ w.toNat ≤ 7)
    ∧ ∀ (s : State) (w : Word) (rest : List HostAct), s.hostQ = .write 32 0 w :: rest →
        (s.run = true ∨ ¬ (1 ≤ w.toNat ∧ w.toNat ≤ 7)) → step s = .next { s with hostQ := rest }

/-! ## A step runs the decoded instruction -/

/-- R83: a `CMD` write that is accepted runs the command it encodes, on the state whose queue has moved on. -/
def Obligations.StepRunsAcceptedCommand : Prop :=
  ∀ (s : State) (w : Word) (rest : List HostAct) (i : Instr),
    s.hostQ = .write 32 0 w :: rest → s.run = false → decodeCmd w = .ok i →
    step s = exec i { s with hostQ := rest }

/-- R86 to R90, and log entry 8 for the position: the sequencer, before a frame that decodes, runs the frame's
instruction, and stands before the frames after it. -/
def Obligations.StepSendsPendingFrame : Prop :=
  ∀ (s : State) (frame : List Byte) (rest : List (List Byte)) (i : Instr),
    s.run = true → s.pos = .sending (frame :: rest) → (s.hostQ = [] ∨ ∃ q, s.hostQ = .wait :: q) →
    decodeFrame (Sequencer.wireCtx s) frame = .ok i →
    step s = exec i { s with pos := .sending rest }

/-- R28, R249: with `RUN = 0` and nothing from the host, nothing changes; and a command never stops the machine, for
EPD-SEQ has no traps (R84, R232). -/
def Obligations.IdleHoldsAndExecAlwaysAnswers : Prop :=
  (∀ s : State, s.run = false → s.hostQ = [] → step s = .next s)
    ∧ ∀ (i : Instr) (s : State), ∃ t, exec i s = .next t

/-! ## Host port and operands -/

/-- R23: the bits of `STATUS`. -/
def Obligations.StatusWordLayout : Prop :=
  ∀ s : State,
    s.statusWord.extractLsb' 0 2 =
        (match s.st with
         | .ok => 0#2
         | .unsupportedController => 1#2
         | .panelBroken => 2#2
         | .powerFailure => 3#2)
      ∧ s.statusWord.extractLsb' 2 2 = 0#2
      ∧ s.statusWord.getLsbD 4 = s.run
      ∧ s.statusWord.extractLsb' 5 27 = 0#27

/-- R22 to R24, R35, R66, R67: what a host read returns at every offset, with no side effect, and that an access of
another width or at an offset that is no multiple of 4 is refused (the refusal is what R66 asks of a model). R24 speaks
of `RUN = 0`: what a read of an argument register returns while `RUN = 1` is the model's choice, log entry 7. -/
def Obligations.HostReadOfEveryOffset : Prop :=
  ∀ (s : State) (width offset : Nat) (rest : List HostAct), s.hostQ = .read width offset :: rest →
    (width = 32 ∧ offset % 4 = 0 → ∃ t, step s = .next t ∧ { t with hostRd := s.hostRd } = { s with hostQ := rest }
        ∧ (offset = 0x00 → t.hostRd = 0) ∧ (offset = 0x04 → t.hostRd = s.statusWord)
        ∧ (offset = 0x08 → t.hostRd = s.args.line) ∧ (offset = 0x0C → t.hostRd = s.args.pix)
        ∧ (offset = 0x10 → t.hostRd = s.args.temp) ∧ (offset = 0x14 → t.hostRd = s.args.fb)
        ∧ (0x18 ≤ offset → t.hostRd = 0))
      ∧ (¬ (width = 32 ∧ offset % 4 = 0) → step s = .refused (.hostAccess width offset))

/-- R23, R24, R35, R67: a write of an argument register only stores, a write at any other offset but 0x00 is ignored;
and an access of another width or at an offset that is no multiple of 4 is refused (the refusal is what R66 and U3 ask
of a model). R24 speaks of `RUN = 0`: that a write of an argument register while `RUN = 1` is stored too is the model's
choice, log entry 7, where U1 asks a model to refuse such a host. -/
def Obligations.HostWriteOfEveryOffset : Prop :=
  ∀ (s : State) (width offset : Nat) (v : Word) (rest : List HostAct), s.hostQ = .write width offset v :: rest →
    (width = 32 ∧ offset % 4 = 0 → offset ≠ 0 →
      ∃ x, step s = .next { s with hostQ := rest, args := x }
        ∧ x.line = (if offset = 0x08 then v else s.args.line)
        ∧ x.pix = (if offset = 0x0C then v else s.args.pix)
        ∧ x.temp = (if offset = 0x10 then v else s.args.temp)
        ∧ x.fb = (if offset = 0x14 then v else s.args.fb))
      ∧ (¬ (width = 32 ∧ offset % 4 = 0) → step s = .refused (.hostAccess width offset))

/-- R81, R83: acceptance latches the operands of R81 from the argument registers, sets `RUN`, and changes nothing
else. That the bits of `base` above bit 31 are 0 where `ADDR_BITS` exceeds 32 is the model's choice, log entry 21. -/
def Obligations.AcceptanceLatchesOperands : Prop :=
  ∀ s : State,
    { accept s with run := s.run, work := s.work } = s
      ∧ (accept s).run = true
      ∧ (accept s).work.index.toNat = s.args.line.toNat % 2 ^ 16
      ∧ (accept s).work.value.toNat = s.args.pix.toNat % 2 ^ 8
      ∧ (accept s).work.border.toNat = s.args.pix.toNat / 2 ^ 8 % 2 ^ 8
      ∧ ((accept s).work.stage = .normal ↔ s.args.pix.toNat / 2 ^ 16 % 2 = 1)
      ∧ ((accept s).work.usesData = true ↔ s.args.pix.toNat / 2 ^ 17 % 2 = 1)
      ∧ (accept s).work.temperature
          = (if s.args.temp.toNat < 2 ^ 31 then (s.args.temp.toNat : Int) else s.args.temp.toNat - 2 ^ 32)
      ∧ (accept s).work.base = s.args.fb.toNat % 2 ^ s.par.addrBits

/-- R61, R62, R64: the host's fill of the buffer is what a read of that byte then gives, every other byte reads as
before, and the form stays canonical. The fill as an action of one byte, its refusal while an operation runs (which R266
and U18 ask of a model) and the fault outside the address space are the model's choice, log entry 11: the spec does not
say how a host fills its buffer. -/
def Obligations.HostFillThenBufferRead : Prop :=
  ∀ (s : State) (a : Nat) (v : Byte) (rest : List HostAct), s.hostQ = .poke a v :: rest → s.mem.wf →
    (s.run = false → a < 2 ^ s.par.addrBits →
      ∃ m, step s = .next { s with hostQ := rest, mem := m } ∧ m.wf ∧ m.byte a = v
        ∧ ∀ b, b ≠ a → m.byte b = s.mem.byte b)
      ∧ (s.run = true → step s = .refused .bufferInUse)
      ∧ (s.run = false → 2 ^ s.par.addrBits ≤ a → step s = .fault (.noSuchAddress a))

/-! ## Reset and the profile -/

/-- R21, R120, R121, R250: what reset leaves, when every row of the profile table keeps R122. That a reset is also taken
while an operation runs, at the position it holds (R251 and U16 let a model refuse it), and what reset keeps (the trace,
the counters, the frame buffer, the parameters, the strap), are the model's choice, log entry 10. The working registers and the capture bytes
are the model's choice (log entry 1) and no clause names them. -/
def Obligations.ResetValues : Prop :=
  ∀ (s : State) (rest : List HostAct), s.hostQ = .reset :: rest → (∀ z, (s.par.profile z).wf = true) →
    ∃ t, step s = .next t
      ∧ t.size = resolveSize s.sizeSel ∧ t.toff = 1 ∧ t.st = .ok ∧ t.run = false
      ∧ t.args.line = 0 ∧ t.args.pix = 0 ∧ t.args.temp = 0 ∧ t.args.fb = 0
      ∧ t.psm = .uninitialized ∧ t.pins = Pins.low ∧ t.busEn = false ∧ t.pos = .idle
      ∧ t.trace = s.trace ∧ t.rxSeen = s.rxSeen ∧ t.waitSeen = s.waitSeen ∧ t.clockSeen = s.clockSeen
      ∧ t.mem = s.mem ∧ t.par = s.par ∧ t.sizeSel = s.sizeSel

/-- R122: the four invariants of a profile row, and a reset with a table of which any row, selected or not, breaks one
is refused (the refusal at table load is what U12 asks of a model; that the table is loaded at reset is log entry 10). -/
def Obligations.ResetRefusesIllFormedTable : Prop :=
  (∀ p : Profile, p.wf = true ↔
      8 * p.bytesPerLine.toNat = p.dotsPerLine.toNat ∧ 4 * p.bytesPerScan.toNat = p.linesPerDisplay.toNat
        ∧ p.channelSelect.length = 9 ∧ p.channelSelect.head? = some 0x72)
    ∧ ∀ (s : State) (rest : List HostAct) (z : Size), s.hostQ = .reset :: rest → (s.par.profile z).wf = false →
        step s = .refused .profileTable

/-- R21: the host sets the strap, and nothing else changes: `SIZE` waits for the next reset. A strap that is set by an
action of the host is the model's form of that input (log entry 16). -/
def Obligations.StrapSetsSelectorOnly : Prop :=
  ∀ (s : State) (code : Byte) (rest : List HostAct), s.hostQ = .strap code :: rest →
    step s = .next { s with hostQ := rest, sizeSel := code }

/-- R21, R120: `SIZE` is constant until the next reset, which resolves the strap again; and no step but a reset writes
it, nor any but the host's action the strap. -/
def Obligations.SizeChangesOnlyAtReset : Prop :=
  ∀ s t : State, step s = .next t →
    (t.size = s.size ∨ ∃ rest, s.hostQ = .reset :: rest ∧ t.size = resolveSize s.sizeSel)
      ∧ (t.sizeSel = s.sizeSel ∨ ∃ code rest, s.hostQ = .strap code :: rest ∧ t.sizeSel = code)

/-- R21, R120: the size a strap code selects, unknown codes falling back to 1.44 inch; R121: the 2.0 inch profile. -/
def Obligations.SizeSelectorResolves : Prop :=
  (∀ sel : Byte, resolveSize sel =
      if sel.toNat = 1 then .s200 else if sel.toNat = 2 then .s270 else .s144)
    ∧ ∀ p : Params, p.profile .s144 = p.profile144 ∧ p.profile .s270 = p.profile270
        ∧ (p.profile .s200).linesPerDisplay = 96 ∧ (p.profile .s200).dotsPerLine = 200
        ∧ (p.profile .s200).bytesPerLine = 25 ∧ (p.profile .s200).bytesPerScan = 24
        ∧ (p.profile .s200).channelSelect = [0x72, 0x00, 0x00, 0x00, 0x00, 0x01, 0xFF, 0xE0, 0x00]

/-! ## SETFACTOR -/

/-- R130, R131: the band index of any integer; SETFACTOR is `OP = 3` and completes from every state: it writes `TOFF` by
the three-way test on the sign-extended operand, makes no port event, and returns. The working registers after the
return are free (log entry 6). -/
def Obligations.SetFactorSelectsBand : Prop :=
  (∀ t : Int, (bandOffset t).val = if t < 10 then 0 else if t ≤ 40 then 1 else 2)
    ∧ decodeCmd 0x00000003 = .ok .setFactor
    ∧ ∀ s : State, ∃ t, exec .setFactor s = .next t ∧ Untouched s t ∧ Returned s t
        ∧ (t.toff.val = if s.args.temp.toInt < 10 then 0 else if s.args.temp.toInt ≤ 40 then 1 else 2)
        ∧ t.st = s.st ∧ t.psm = s.psm ∧ t.pins = s.pins ∧ t.busEn = s.busEn ∧ t.rxcap = s.rxcap ∧ t.sel = s.sel
        ∧ t.trace = s.trace ∧ t.rxSeen = s.rxSeen ∧ t.waitSeen = s.waitSeen ∧ t.clockSeen = s.clockSeen

/-! ## The framing engine -/

/-- R211, R212: the exact events of bus enable and bus disable; BUSY is not sampled and CS is not touched. -/
def Obligations.BusEnableDisableEvents : Prop :=
  ∀ s : State,
    (∃ r r', (busEnable s).trace
        = s.trace ++ [.bus true, .xfer 0 r, .xfer 0 r', .delayUs s.par.busSettleUs])
      ∧ (busEnable s).busEn = true ∧ (busEnable s).pins = s.pins ∧ (busEnable s).waitSeen = s.waitSeen
      ∧ (∃ r r', (busDisable s).trace
        = s.trace ++ [.xfer 0 r, .xfer 0 r', .delayUs s.par.busSettleUs, .bus false])
      ∧ (busDisable s).busEn = false ∧ (busDisable s).pins = s.pins ∧ (busDisable s).waitSeen = s.waitSeen

/-- R214: a byte, then samples of BUSY with no delay between them until one is 0; if none ever is, the operation does
not go on, and `RUN` stays 1 (R261; log entry 4 for the position). A wait counts whether it ends or not, so a later one
has an answer of its own (log entry 3). -/
def Obligations.ByteThenBusyWait : Prop :=
  ∀ (s : State) (b : Byte),
    (∀ k, s.env.waitAt s.waitSeen = some k →
      ∃ t, xferW b s = .on t ∧ t.work.rx = s.answer 0
        ∧ t.trace = s.trace ++ .xfer b (s.answer 0) :: (List.replicate k (.busy true) ++ [.busy false])
        ∧ t.rxSeen = s.rxSeen + 1 ∧ t.waitSeen = s.waitSeen + 1)
      ∧ (s.env.waitAt s.waitSeen = none →
        ∃ t, xferW b s = .off t ∧ t.run = true ∧ t.pos = .busyWait false ∧ t.st = s.st ∧ t.psm = s.psm
          ∧ t.waitSeen = s.waitSeen + 1)

/-- R87, R218: WIRE.SELECT is the frame `[70 a]`. -/
def Obligations.WireSelectFrame : Prop :=
  ∀ (a : Byte) (s : State), Responsive s 2 →
    ∃ t, exec (.wireSelect a) s = .next t ∧ Drawn s t ∧ Traced s t (frameTr [0x70, a])
      ∧ t.pins.cs = true ∧ t.sel = some a ∧ t.busEn = s.busEn ∧ t.run = s.run ∧ t.pos = s.pos
      ∧ t.rxSeen = s.rxSeen + 2 ∧ t.waitSeen = s.waitSeen + 2

/-- R88, R219, R220: WIRE.WRITE is the frame `[72 d ...]`, for a payload of any length. -/
def Obligations.WireWriteFrame : Prop :=
  ∀ (d : Byte) (more : List Byte) (s : State), Responsive s (2 + more.length) →
    ∃ t, exec (.wireWrite d more) s = .next t ∧ Drawn s t ∧ Traced s t (frameTr (0x72 :: d :: more))
      ∧ t.pins.cs = true ∧ t.sel = s.sel ∧ t.busEn = s.busEn ∧ t.run = s.run ∧ t.pos = s.pos
      ∧ t.rxSeen = s.rxSeen + 2 + more.length ∧ t.waitSeen = s.waitSeen + 2 + more.length

/-- R90, R220: WIRE.LINEDATA is one frame: 0x72, the border byte, the odd bytes, the scan bytes, the even bytes. -/
def Obligations.WireLineDataFrame : Prop :=
  ∀ (b : Byte) (odd scan even : List Byte) (s : State), Responsive s (2 + odd.length + scan.length + even.length) →
    ∃ t, exec (.wireLineData b odd scan even) s = .next t ∧ Drawn s t
      ∧ Traced s t (frameTr (0x72 :: b :: (odd ++ scan ++ even)))
      ∧ t.pins.cs = true ∧ t.sel = s.sel ∧ t.busEn = s.busEn ∧ t.run = s.run ∧ t.pos = s.pos
      ∧ t.rxSeen = s.rxSeen + 2 + odd.length + scan.length + even.length
      ∧ t.waitSeen = s.waitSeen + 2 + odd.length + scan.length + even.length

/-- R89, R216, R221, R222: the two read frames. The value read is the answer to the second byte; the two answers are
captured in `RXCAP[0]` and `RXCAP[1]`, and `RXCAP[2..3]` are not written. -/
def Obligations.WireReadFrames : Prop :=
  ∀ (x : Byte) (s : State) (i : Instr) (k : Byte),
    (i = .wireIdRead x ∧ k = 0x71) ∨ (i = .wireRegRead x ∧ k = 0x73) → Responsive s 2 →
    ∃ t, exec i s = .next t ∧ Untouched s t ∧ Traced s t (frameTr [k, x])
      ∧ t.work.last = s.answer 1
      ∧ t.rxcap[0] = s.answer 0 ∧ t.rxcap[1] = s.answer 1 ∧ t.rxcap[2] = s.rxcap[2] ∧ t.rxcap[3] = s.rxcap[3]
      ∧ t.pins = { s.pins with cs := true } ∧ t.sel = s.sel ∧ t.busEn = s.busEn ∧ t.run = s.run ∧ t.pos = s.pos
      ∧ t.st = s.st ∧ t.psm = s.psm ∧ t.toff = s.toff
      ∧ t.rxSeen = s.rxSeen + 2 ∧ t.waitSeen = s.waitSeen + 2

/-! ## The Line Encoder -/

/-- R176, R177: the pairs of the transmitted bytes, bit by bit, in the two stages. -/
def Obligations.EncodedPairs : Prop :=
  ∀ x : Byte,
    (∀ k < 4, (odd x .normal).getLsbD (2 * k + 1) = true ∧ (odd x .normal).getLsbD (2 * k) = x.getLsbD (2 * k)
        ∧ (odd x .inverse).getLsbD (2 * k + 1) = true ∧ (odd x .inverse).getLsbD (2 * k) = !x.getLsbD (2 * k))
      ∧ (∀ k < 4, (even x .normal).getLsbD (2 * k + 1) = true
        ∧ (even x .normal).getLsbD (2 * k) = x.getLsbD (7 - 2 * k)
        ∧ (even x .inverse).getLsbD (2 * k + 1) = true
        ∧ (even x .inverse).getLsbD (2 * k) = !x.getLsbD (7 - 2 * k))
      ∧ rev (rev x) = x

/-- R178: the five properties of the two encoders. -/
def Obligations.EncoderProperties : Prop :=
  (∀ (x : Byte) (st : Stage), odd x st &&& 0xAA = 0xAA ∧ even x st &&& 0xAA = 0xAA)
    ∧ (∀ x : Byte, odd x .inverse = odd (x ^^^ 0xFF) .normal ∧ even x .inverse = even (x ^^^ 0xFF) .normal)
    ∧ (∀ x : Byte, odd x .normal ^^^ odd x .inverse = 0x55 ∧ even x .normal ^^^ even x .inverse = 0x55)
    ∧ (∀ (x : Byte) (st : Stage), odd x st = odd (x &&& 0x55) st ∧ even x st = even (x &&& 0xAA) st)
    ∧ odd 0x00 .normal = 0xAA ∧ even 0x00 .normal = 0xAA ∧ odd 0xFF .normal = 0xFF ∧ even 0xFF .normal = 0xFF

/-- R93, R179: a real index activates exactly one scan byte, with the marker of its row; an index at or above L
activates none. -/
def Obligations.ScanActivatesOneRow : Prop :=
  ∀ (bps index : Nat),
    (index < 4 * bps → ∃ b, b < bps ∧ b = (4 * bps - index - 1) / 4
        ∧ scanByte (4 * bps) index b = (0x03#8 <<< (2 * (index % 4))) ∧ scanByte (4 * bps) index b ≠ 0
        ∧ ∀ b', b' < bps → b' ≠ b → scanByte (4 * bps) index b' = 0)
      ∧ (4 * bps ≤ index → ∀ b, b < bps → scanByte (4 * bps) index b = 0)

/-- R171 to R175, R180, R182: LINE completes whenever its waits end: its port events in order (the samples of
BUSY by the count of waits), its buffer reads in order, its counts, and its frame. For `ADDR_BITS` above 32 the base is
the model's choice, log entry 21. -/
def Obligations.LineCompletes : Prop :=
  ∀ s : State, Responsive s s.lineWaits →
    ∃ t evs, exec .line s = .next t ∧ Drawn s t ∧ Returned s t
      ∧ t.trace = s.trace ++ evs
      ∧ outline evs = lineTr s
          { index := s.args.index.toNat, data := s.args.base s.par.addrBits, value := s.args.value,
            usesData := s.args.usesData, stage := s.args.stage, border := s.args.border }
      ∧ memAddrs evs = lineReads s
          { index := s.args.index.toNat, data := s.args.base s.par.addrBits, value := s.args.value,
            usesData := s.args.usesData, stage := s.args.stage, border := s.args.border }
      ∧ t.pins.cs = true ∧ t.busEn = false
      ∧ t.rxSeen = s.rxSeen + s.lineXfers ∧ t.waitSeen = s.waitSeen + s.lineWaits ∧ t.clockSeen = s.clockSeen

/-- R173: a LINE with `usesData = 0` reads no buffer byte and sends the value verbatim as every pixel byte, whatever the
stage: two states that differ in `ARG_PIX` bit 16 at most make the same port events, the samples of BUSY
by the count of waits. -/
def Obligations.FixedFillIgnoresStage : Prop :=
  ∀ (s : State) (p : Word), s.args.usesData = false → (∀ k, k ≠ 16 → p.getLsbD k = s.args.pix.getLsbD k) →
    Responsive s s.lineWaits →
    let fill := List.replicate s.bpl s.args.value
    let scan := (List.range s.bps).map (scanByte s.lines s.args.index.toNat)
    let sentTr := enableTr s.par.busSettleUs ++ frameTr [0x70, 0x0A]
      ++ frameTr (0x72 :: s.args.border :: (fill ++ scan ++ fill)) ++ writeTr 0x02 s.par.v.oeCommit
      ++ disableTr s.par.busSettleUs
    ∃ t t' evs evs', exec .line s = .next t ∧ exec .line { s with args := { s.args with pix := p } } = .next t'
      ∧ t.trace = s.trace ++ evs ∧ t'.trace = s.trace ++ evs'
      ∧ memAddrs evs = [] ∧ memAddrs evs' = [] ∧ outline evs = sentTr ∧ outline evs' = sentTr
      ∧ t.waitSeen = s.waitSeen + s.lineWaits ∧ t'.waitSeen = s.waitSeen + s.lineWaits

/-! ## The Frame Sequencer -/

/-- R192: elapsed time is the difference modulo `2^W` of two W-bit samples. -/
def Obligations.ElapsedIsModular : Prop :=
  ∀ w t0 t1 : Nat, t0 < 2 ^ w → t1 < 2 ^ w →
    (elapsed w t0 t1 : Int) = ((t1 : Int) - t0) % (2 ^ w : Nat) ∧ elapsed w t0 t1 < 2 ^ w

/-- R201(a): the number of visits of a sweep whose step is not 0. -/
def Obligations.SweepVisitCount : Prop :=
  ∀ (rep step block total : Nat), 1 ≤ step →
    ((SweepParams.mk rep step block).visits total).length = rep * ((total + block + step - 1) / step) * block

/-- R202: every line of the panel is visited by a settle or a real line if and only if there is a pass, the block is
not empty, and the block is at least the step. -/
def Obligations.SweepCoversPanel : Prop :=
  ∀ (rep step block total : Nat), 1 ≤ step → 1 ≤ total →
    ((∀ q < total, Visit.settle q ∈ (SweepParams.mk rep step block).visits total
        ∨ Visit.real q ∈ (SweepParams.mk rep step block).visits total)
      ↔ 1 ≤ rep ∧ 1 ≤ block ∧ step ≤ block)

/-- R201(c): a position in `[0, total]` that is congruent to `step - block` modulo `step` is last visited by a settle
line. -/
def Obligations.SweepEndsOnSettleLine : Prop :=
  ∀ (rep step block total q : Nat), 1 ≤ rep → 1 ≤ step → 1 ≤ block → q ≤ total →
    ((q : Int) - ((step : Int) - block)) % step = 0 →
    (((SweepParams.mk rep step block).visits total).filter
        (fun v => v = Visit.settle q ∨ v = Visit.real q)).getLast? = some (Visit.settle q)

/-- R196 to R198, R200, R203: FRAME_FIXED_13 completes whenever its sweep ends (its step is not 0, or it has no pass, or
no line and no block) and its waits end: the LINEs of its visits in order, and its frame. -/
def Obligations.FrameFixedCompletes : Prop :=
  ∀ s : State,
    let q := sweepParams s.band s.args.stage
    let n := (q.visits s.lines).length
    1 ≤ q.step ∨ q.rep = 0 ∨ s.lines + q.block = 0 → Responsive s (n * s.lineWaits) →
    ∃ t, exec .frameFixed13 s = .next t ∧ Drawn s t ∧ Returned s t
      ∧ Traced s t (sweepTr s q fun p =>
          { index := p, data := 0, value := s.args.value, usesData := false, stage := s.args.stage,
            border := s.par.borderDefault })
      ∧ (t.pins.cs = if n = 0 then s.pins.cs else true) ∧ (t.busEn = if n = 0 then s.busEn else false)
      ∧ t.rxSeen = s.rxSeen + n * s.lineXfers ∧ t.waitSeen = s.waitSeen + n * s.lineWaits ∧ t.clockSeen = s.clockSeen

/-- R196, R197, R199, R200, R203: FRAME_DATA_13 completes whenever its sweep ends (its step is not 0, or it has no pass,
or no line and no block) and its waits end: the LINEs of its visits in order, a real line sending scanline `pos` of the
image, and its frame. For `ADDR_BITS` above 32 the base of the image is the model's choice, log entry 21. -/
def Obligations.FrameDataCompletes : Prop :=
  ∀ s : State,
    let q := sweepParams s.band s.args.stage
    let n := (q.visits s.lines).length
    1 ≤ q.step ∨ q.rep = 0 ∨ s.lines + q.block = 0 → Responsive s (n * s.lineWaits) →
    ∃ t, exec .frameData13 s = .next t ∧ Drawn s t ∧ Returned s t
      ∧ Traced s t (sweepTr s q fun p =>
          { index := p, data := (s.args.base s.par.addrBits + p * s.bpl) % 2 ^ s.par.addrBits, value := 0,
            usesData := true, stage := s.args.stage, border := s.par.borderDefault })
      ∧ (t.pins.cs = if n = 0 then s.pins.cs else true) ∧ (t.busEn = if n = 0 then s.busEn else false)
      ∧ t.rxSeen = s.rxSeen + n * s.lineXfers ∧ t.waitSeen = s.waitSeen + n * s.lineWaits ∧ t.clockSeen = s.clockSeen

/-- R203, R263: a sweep whose step is 0, with a pass and a line or a block, never returns: `RUN` stays 1 after the
command and after every step from the position it then holds (log entry 4 for that position), with nothing from the host
or the host waiting. -/
def Obligations.ZeroStepSweepNeverReturns : Prop :=
  (∀ (s : State) (i : Instr), i = .frameFixed13 ∨ i = .frameData13 →
      let q := sweepParams s.band s.args.stage
      q.step = 0 → 1 ≤ q.rep → 1 ≤ s.lines + q.block →
      ∃ t, exec i s = .next t ∧ t.run = true ∧ (t.pos = .zeroStep q.block ∨ t.pos = .busyWait false))
    ∧ ∀ (s : State) (block : Nat), s.run = true → s.pos = .zeroStep block ∨ s.pos = .busyWait false →
      (s.hostQ = [] ∨ ∃ q, s.hostQ = .wait :: q) →
      ∃ t, step s = .next t ∧ t.run = true ∧ (t.pos = s.pos ∨ t.pos = .busyWait false)

/-- R190, R191, R195: FRAME_STAGE2 completes whenever its clock samples reach each half's minimum within the passes one
step makes (log entry 4) and its waits end: each half makes the least number of passes, at least one, whose measured
time reaches the minimum, the clock read before and after each pass. -/
def Obligations.FrameStage2Completes : Prop :=
  ∀ (s : State) (ns : List Nat), PassPlan s 0 (stage2Halves s.band) s.clockSeen ns →
    Responsive s (ns.sum * s.lines * s.lineWaits) →
    ∃ t, exec .frameStage2 s = .next t ∧ Drawn s t ∧ Returned s t
      ∧ Traced s t (halvesTr s (stage2Halves s.band) ns)
      ∧ (t.pins.cs = if ns.sum * s.lines = 0 then s.pins.cs else true)
      ∧ (t.busEn = if ns.sum * s.lines = 0 then s.busEn else false)
      ∧ t.clockSeen = s.clockSeen + 2 * ns.sum ∧ t.rxSeen = s.rxSeen + ns.sum * s.lines * s.lineXfers
      ∧ t.waitSeen = s.waitSeen + ns.sum * s.lines * s.lineWaits

/-- R191, R193, R195, R262: FRAME_STAGE2 when some of its halves, `done`, reach their minimum and the next one does not
in all the passes one step makes: it stands between two passes of that half with `RUN = 1`, the time kept and the halves
from it on still to run (log entry 4 for the position and the number of passes). -/
def Obligations.FrameStage2StopsBetweenPasses : Prop :=
  ∀ (s : State) (done : List (Byte × Nat)) (v : Byte) (minMs : Nat) (rest : List (Byte × Nat)) (ns : List Nat),
    let c := s.clockSeen + 2 * ns.sum
    let m := stepPasses s c
    stage2Halves s.band = done ++ (v, minMs) :: rest → PassPlan s 0 done s.clockSeen ns → measured s c m < minMs →
    Responsive s ((ns.sum + m) * s.lines * s.lineWaits) →
    ∃ t, exec .frameStage2 s = .next t ∧ t.run = true ∧ t.pos = .timed ((v, minMs) :: rest)
      ∧ t.work.acc = measured s c m ∧ Drawn s t ∧ Traced s t (halvesTr s (done ++ [(v, minMs)]) (ns ++ [m]))
      ∧ t.clockSeen = c + 2 * m ∧ t.returns = s.returns
      ∧ t.waitSeen = s.waitSeen + (ns.sum + m) * s.lines * s.lineWaits

/-- R191, R193, R195: a step from between two passes, with nothing from the host or the host waiting, goes on with the
time kept. Where the clock samples reach each half's minimum within the passes one step makes (log entry 4) and the
waits end, it makes the passes of the halves still to run, each the least number, and returns. -/
def Obligations.TimedHalvesResume : Prop :=
  ∀ (s : State) (todo : List (Byte × Nat)) (ns : List Nat),
    s.run = true → s.pos = .timed todo → (s.hostQ = [] ∨ ∃ q, s.hostQ = .wait :: q) →
    PassPlan s s.work.acc todo s.clockSeen ns → Responsive s (ns.sum * s.lines * s.lineWaits) →
    ∃ t, step s = .next t ∧ Drawn s t ∧ Returned s t ∧ Traced s t (halvesTr s todo ns)
      ∧ (t.pins.cs = if ns.sum * s.lines = 0 then s.pins.cs else true)
      ∧ (t.busEn = if ns.sum * s.lines = 0 then s.busEn else false)
      ∧ t.clockSeen = s.clockSeen + 2 * ns.sum ∧ t.rxSeen = s.rxSeen + ns.sum * s.lines * s.lineXfers
      ∧ t.waitSeen = s.waitSeen + ns.sum * s.lines * s.lineWaits

/-- R191, R193, R262: while the time measured does not reach the minimum the timed loop goes on, pass after pass, with
`RUN` at 1: a step from between two passes in which some of the halves still to run, `done`, reach their minimum and the
next one does not stands between two passes of that one (log entry 4 for the position and the number of passes). -/
def Obligations.StalledClockKeepsLooping : Prop :=
  ∀ (s : State) (done : List (Byte × Nat)) (v : Byte) (minMs : Nat) (rest : List (Byte × Nat)) (ns : List Nat),
    let c := s.clockSeen + 2 * ns.sum
    let m := stepPasses s c
    let kept := if done = [] then s.work.acc else 0
    s.run = true → s.pos = .timed (done ++ (v, minMs) :: rest) → (s.hostQ = [] ∨ ∃ q, s.hostQ = .wait :: q) →
    PassPlan s s.work.acc done s.clockSeen ns → kept + measured s c m < minMs →
    Responsive s ((ns.sum + m) * s.lines * s.lineWaits) →
    ∃ t, step s = .next t ∧ t.run = true ∧ t.pos = .timed ((v, minMs) :: rest)
      ∧ t.work.acc = kept + measured s c m ∧ Drawn s t ∧ Traced s t (halvesTr s (done ++ [(v, minMs)]) (ns ++ [m]))
      ∧ t.clockSeen = c + 2 * m ∧ t.returns = s.returns
      ∧ t.waitSeen = s.waitSeen + (ns.sum + m) * s.lines * s.lineWaits

/-! ## The Power Sequencer -/

/-- R160, R161: `power_off` from any state: its events in order, the bus off before CS drops, every pin low. -/
def Obligations.PowerOffLeavesPinsLow : Prop :=
  ∀ s : State, Untouched s (powerOff s) ∧ (powerOff s).pins = Pins.low ∧ (powerOff s).busEn = false
    ∧ (powerOff s).psm = .poweredDown ∧ (powerOff s).st = s.st ∧ (powerOff s).toff = s.toff
    ∧ (powerOff s).waitSeen = s.waitSeen ∧ Traced s (powerOff s) (powerOffTr s.par.busSettleUs)

/-- R236, R237: the fault path: the code is recorded before the first event of `power_off`, nothing else is saved, and
the operation ends. -/
def Obligations.RaiseRecordsCodeAndPowersOff : Prop :=
  ∀ (c : Status) (s : State), ∃ t, raise c s = .off t ∧ Untouched s t ∧ Returned s t ∧ t.st = c
    ∧ t.psm = .poweredDown ∧ t.pins = Pins.low ∧ t.busEn = false ∧ t.toff = s.toff ∧ t.rxcap = s.rxcap
    ∧ t.waitSeen = s.waitSeen ∧ Traced s t (raiseTr c s.par.busSettleUs)

/-- R141 to R152: BEGIN against a controller that passes the ID and panel checks and whose pumps are ready at attempt
`k`: `ST = Ok`, `PSM = Ready`, the powered pins, the bus off, every port event but the samples of BUSY
in order, and the waits in which BUSY is sampled by their count. -/
def Obligations.BeginReachesReady : Prop :=
  ∀ (s : State) (k : Nat), k < 4 →
    Responsive s (47 + s.profile.channelSelect.length + 16 * (k + 1)) →
    s.answer 5 &&& 0x0F = 0x02 → s.answer 13 &&& 0x80 ≠ 0 →
    (∀ j < k, s.pumpAnswer j &&& s.par.dcdcMask = 0) → s.pumpAnswer k &&& s.par.dcdcMask ≠ 0 →
    ∃ t, exec .beginCmd s = .next t ∧ Untouched s t ∧ Returned s t
      ∧ t.st = .ok ∧ t.psm = .ready ∧ t.pins = Pins.powered ∧ t.busEn = false ∧ t.toff = s.toff
      ∧ t.rxcap[2] = s.rxcap[2] ∧ t.rxcap[3] = s.rxcap[3] ∧ t.clockSeen = s.clockSeen
      ∧ t.waitSeen = s.waitSeen + (47 + s.profile.channelSelect.length + 16 * (k + 1))
      ∧ Traced s t (beginTr7 s (k + 1) ++ writeTr 0x02 s.par.v.oeDisable ++ disableTr s.par.busSettleUs)

/-- R146, R236, R238: BEGIN against a controller whose second ID read has another low nibble. The status register is
never read. -/
def Obligations.BeginRaisesUnsupportedController : Prop :=
  ∀ s : State, Responsive s 5 → s.answer 5 &&& 0x0F ≠ 0x02 →
    ∃ t, exec .beginCmd s = .next t ∧ Untouched s t ∧ Returned s t
      ∧ t.st = .unsupportedController ∧ t.psm = .poweredDown ∧ t.pins = Pins.low ∧ t.busEn = false ∧ t.toff = s.toff
      ∧ t.waitSeen = s.waitSeen + 5
      ∧ Traced s t (beginTr4 s ++ raiseTr .unsupportedController s.par.busSettleUs)

/-- R147, R236: BEGIN against a supported controller whose status byte has bit 0x80 clear. -/
def Obligations.BeginRaisesPanelBroken : Prop :=
  ∀ s : State, Responsive s 13 → s.answer 5 &&& 0x0F = 0x02 → s.answer 13 &&& 0x80 = 0 →
    ∃ t, exec .beginCmd s = .next t ∧ Untouched s t ∧ Returned s t
      ∧ t.st = .panelBroken ∧ t.psm = .poweredDown ∧ t.pins = Pins.low ∧ t.busEn = false ∧ t.toff = s.toff
      ∧ t.waitSeen = s.waitSeen + 13
      ∧ Traced s t (beginTr5 s ++ raiseTr .panelBroken s.par.busSettleUs)

/-- R151, R236: BEGIN when the ready bit is clear in each of the four attempts: exactly four pump-enable cycles with
their delays, nothing between the last status read and the fault path. -/
def Obligations.BeginRaisesPowerFailure : Prop :=
  ∀ s : State, Responsive s (107 + s.profile.channelSelect.length) →
    s.answer 5 &&& 0x0F = 0x02 → s.answer 13 &&& 0x80 ≠ 0 → (∀ j < 4, s.pumpAnswer j &&& s.par.dcdcMask = 0) →
    ∃ t, exec .beginCmd s = .next t ∧ Untouched s t ∧ Returned s t
      ∧ t.st = .powerFailure ∧ t.psm = .poweredDown ∧ t.pins = Pins.low ∧ t.busEn = false ∧ t.toff = s.toff
      ∧ t.waitSeen = s.waitSeen + (107 + s.profile.channelSelect.length)
      ∧ Traced s t (beginTr7 s 4 ++ raiseTr .powerFailure s.par.busSettleUs)

/-- R145, R261: BEGIN whose ready wait never samples 0 stays in it with `RUN = 1`, `ST = Ok`, `PSM = PoweringUp` and
the powered pins, and so does every step from there, with nothing from the host or the host waiting (log entry 4 for the
position; log entry 3 for the wait it counts). -/
def Obligations.BeginHangsInReadyWait : Prop :=
  (∀ s : State, s.env.waitAt s.waitSeen = none →
      ∃ t, exec .beginCmd s = .next t ∧ Untouched s t ∧ t.run = true ∧ t.pos = .busyWait true ∧ t.st = .ok
        ∧ t.psm = .poweringUp ∧ t.pins = Pins.powered ∧ t.busEn = true ∧ t.waitSeen = s.waitSeen + 1)
    ∧ ∀ (s : State) (polled : Bool), s.run = true → s.pos = .busyWait polled →
      (s.hostQ = [] ∨ ∃ q, s.hostQ = .wait :: q) →
      ∃ evs, step s = .next { s with trace := s.trace ++ evs }

/-- R140, R144, R230: whatever the environment does, BEGIN that returns has one of two outcomes: `Ok` and powered, or
one of the three faults and powered down. -/
def Obligations.BeginHasTwoOutcomes : Prop :=
  ∀ s t : State, exec .beginCmd s = .next t → t.run = false →
    (t.st = .ok ∧ t.psm = .ready ∧ t.pins = Pins.powered ∧ t.busEn = false)
      ∨ (t.st ≠ .ok ∧ t.psm = .poweredDown ∧ t.pins = Pins.low ∧ t.busEn = false)

/-- R153 to R156, R160: END against a controller whose ready bit is set: flush, re-verification, teardown, `power_off`;
`ST` stays as it was. -/
def Obligations.EndPowersDown : Prop :=
  ∀ s : State, Responsive s (s.flushLines * s.lineWaits + 40) → s.endAnswer &&& s.par.dcdcMask ≠ 0 →
    ∃ t, exec .endCmd s = .next t ∧ Untouched s t ∧ Returned s t
      ∧ t.st = s.st ∧ t.psm = .poweredDown ∧ t.pins = Pins.low ∧ t.busEn = false ∧ t.toff = s.toff
      ∧ t.rxcap[2] = s.rxcap[2] ∧ t.rxcap[3] = s.rxcap[3] ∧ t.clockSeen = s.clockSeen
      ∧ t.waitSeen = s.waitSeen + (s.flushLines * s.lineWaits + 40)
      ∧ Traced s t (endTr s ++ teardownTr s ++ powerOffTr s.par.busSettleUs)

/-- R153, R155, R236: END against a controller whose ready bit is clear: `PowerFailure`, no teardown write. -/
def Obligations.EndRaisesPowerFailure : Prop :=
  ∀ s : State, Responsive s (s.flushLines * s.lineWaits + 4) → s.endAnswer &&& s.par.dcdcMask = 0 →
    ∃ t, exec .endCmd s = .next t ∧ Untouched s t ∧ Returned s t
      ∧ t.st = .powerFailure ∧ t.psm = .poweredDown ∧ t.pins = Pins.low ∧ t.busEn = false ∧ t.toff = s.toff
      ∧ t.waitSeen = s.waitSeen + (s.flushLines * s.lineWaits + 4)
      ∧ Traced s t (endTr s ++ raiseTr .powerFailure s.par.busSettleUs)

/-- R153, R230: whatever the environment does, END that returns has powered down, and `ST` is as it was or
`PowerFailure`. -/
def Obligations.EndAlwaysPowersDown : Prop :=
  ∀ s t : State, exec .endCmd s = .next t → t.run = false →
    (t.st = s.st ∨ t.st = .powerFailure) ∧ t.psm = .poweredDown ∧ t.pins = Pins.low ∧ t.busEn = false

/-! ## The whole machine -/

/-- R21, R24, R41, R64: no instruction writes the configuration, the argument registers, the frame buffer, or what is
the host's or the environment's; and `RXCAP[2..3]` are never written (R216). -/
def Obligations.ExecLeavesHostSideUntouched : Prop :=
  ∀ (i : Instr) (s t : State), exec i s = .next t →
    Untouched s t ∧ t.rxcap[2] = s.rxcap[2] ∧ t.rxcap[3] = s.rxcap[3]

/-- R25, R26, R182: only BEGIN and END write `ST`, `PSM` or a pin other than CS, and only SETFACTOR writes `TOFF`. -/
def Obligations.WritersOfStatusPowerAndBand : Prop :=
  ∀ (i : Instr) (s t : State), exec i s = .next t →
    (i ≠ .setFactor → t.toff = s.toff)
      ∧ (i ≠ .beginCmd → i ≠ .endCmd → t.st = s.st ∧ t.psm = s.psm ∧ t.pins.reset = s.pins.reset
          ∧ t.pins.panelOn = s.pins.panelOn ∧ t.pins.discharge = s.pins.discharge ∧ t.pins.border = s.pins.border)

/-- R230: the only codes a command can leave in `ST` that it did not find there. -/
def Obligations.FaultCodesByCommand : Prop :=
  ∀ (i : Instr) (s t : State), exec i s = .next t →
    (t.st = .unsupportedController → t.st = s.st ∨ i = .beginCmd)
      ∧ (t.st = .panelBroken → t.st = s.st ∨ i = .beginCmd)
      ∧ (t.st = .powerFailure → t.st = s.st ∨ i = .beginCmd ∨ i = .endCmd)

/-- The invariant: R28, R140, R144, R161, R213, R249 and the canonical form of the frame buffer. Every step keeps it. -/
def Obligations.StepKeepsInvariant : Prop := ∀ s t : State, Inv s → step s = .next t → Inv t

/-- The invariant at `State.reset`. -/
def Obligations.ResetMeetsInvariant : Prop := Inv State.reset

/-- R41: no step writes the configuration or the environment's answers. -/
def Obligations.StepKeepsConfiguration : Prop :=
  ∀ s t : State, step s = .next t → t.par = s.par ∧ t.env = s.env

/-- R12, R70: the trace only grows: every step leaves the events before it in place and in order. -/
def Obligations.TraceOnlyGrows : Prop := ∀ s t : State, step s = .next t → s.trace <+: t.trace
end

