-- ==== Sys2Proof/Laws/State.lean ====
section
/-! SUPPORT. One lemma per field per named update of the state, each true by rfl, so that no proof unfolds a record
update. -/

namespace Sys2Proof.Machine

/-! `emit` -/

@[simp] theorem emit_par (e : Event) (s : State) : (emit e s).par = s.par := rfl
@[simp] theorem emit_sizeSel (e : Event) (s : State) : (emit e s).sizeSel = s.sizeSel := rfl
@[simp] theorem emit_size (e : Event) (s : State) : (emit e s).size = s.size := rfl
@[simp] theorem emit_run (e : Event) (s : State) : (emit e s).run = s.run := rfl
@[simp] theorem emit_st (e : Event) (s : State) : (emit e s).st = s.st := rfl
@[simp] theorem emit_args (e : Event) (s : State) : (emit e s).args = s.args := rfl
@[simp] theorem emit_toff (e : Event) (s : State) : (emit e s).toff = s.toff := rfl
@[simp] theorem emit_psm (e : Event) (s : State) : (emit e s).psm = s.psm := rfl
@[simp] theorem emit_pos (e : Event) (s : State) : (emit e s).pos = s.pos := rfl
@[simp] theorem emit_work (e : Event) (s : State) : (emit e s).work = s.work := rfl
@[simp] theorem emit_rxcap (e : Event) (s : State) : (emit e s).rxcap = s.rxcap := rfl
@[simp] theorem emit_pins (e : Event) (s : State) : (emit e s).pins = s.pins := rfl
@[simp] theorem emit_busEn (e : Event) (s : State) : (emit e s).busEn = s.busEn := rfl
@[simp] theorem emit_mem (e : Event) (s : State) : (emit e s).mem = s.mem := rfl
@[simp] theorem emit_env (e : Event) (s : State) : (emit e s).env = s.env := rfl
@[simp] theorem emit_rxSeen (e : Event) (s : State) : (emit e s).rxSeen = s.rxSeen := rfl
@[simp] theorem emit_waitSeen (e : Event) (s : State) : (emit e s).waitSeen = s.waitSeen := rfl
@[simp] theorem emit_clockSeen (e : Event) (s : State) : (emit e s).clockSeen = s.clockSeen := rfl
@[simp] theorem emit_sel (e : Event) (s : State) : (emit e s).sel = s.sel := rfl
@[simp] theorem emit_returns (e : Event) (s : State) : (emit e s).returns = s.returns := rfl
@[simp] theorem emit_hostQ (e : Event) (s : State) : (emit e s).hostQ = s.hostQ := rfl
@[simp] theorem emit_hostRd (e : Event) (s : State) : (emit e s).hostRd = s.hostRd := rfl
@[simp] theorem emit_trace (e : Event) (s : State) : (emit e s).trace = s.trace ++ [e] := rfl

/-! `setWork` -/

@[simp] theorem setWork_par (f : Work → Work) (s : State) : (setWork f s).par = s.par := rfl
@[simp] theorem setWork_sizeSel (f : Work → Work) (s : State) : (setWork f s).sizeSel = s.sizeSel := rfl
@[simp] theorem setWork_size (f : Work → Work) (s : State) : (setWork f s).size = s.size := rfl
@[simp] theorem setWork_run (f : Work → Work) (s : State) : (setWork f s).run = s.run := rfl
@[simp] theorem setWork_st (f : Work → Work) (s : State) : (setWork f s).st = s.st := rfl
@[simp] theorem setWork_args (f : Work → Work) (s : State) : (setWork f s).args = s.args := rfl
@[simp] theorem setWork_toff (f : Work → Work) (s : State) : (setWork f s).toff = s.toff := rfl
@[simp] theorem setWork_psm (f : Work → Work) (s : State) : (setWork f s).psm = s.psm := rfl
@[simp] theorem setWork_pos (f : Work → Work) (s : State) : (setWork f s).pos = s.pos := rfl
@[simp] theorem setWork_work (f : Work → Work) (s : State) : (setWork f s).work = f s.work := rfl
@[simp] theorem setWork_rxcap (f : Work → Work) (s : State) : (setWork f s).rxcap = s.rxcap := rfl
@[simp] theorem setWork_pins (f : Work → Work) (s : State) : (setWork f s).pins = s.pins := rfl
@[simp] theorem setWork_busEn (f : Work → Work) (s : State) : (setWork f s).busEn = s.busEn := rfl
@[simp] theorem setWork_mem (f : Work → Work) (s : State) : (setWork f s).mem = s.mem := rfl
@[simp] theorem setWork_env (f : Work → Work) (s : State) : (setWork f s).env = s.env := rfl
@[simp] theorem setWork_rxSeen (f : Work → Work) (s : State) : (setWork f s).rxSeen = s.rxSeen := rfl
@[simp] theorem setWork_waitSeen (f : Work → Work) (s : State) : (setWork f s).waitSeen = s.waitSeen := rfl
@[simp] theorem setWork_clockSeen (f : Work → Work) (s : State) : (setWork f s).clockSeen = s.clockSeen := rfl
@[simp] theorem setWork_sel (f : Work → Work) (s : State) : (setWork f s).sel = s.sel := rfl
@[simp] theorem setWork_returns (f : Work → Work) (s : State) : (setWork f s).returns = s.returns := rfl
@[simp] theorem setWork_hostQ (f : Work → Work) (s : State) : (setWork f s).hostQ = s.hostQ := rfl
@[simp] theorem setWork_hostRd (f : Work → Work) (s : State) : (setWork f s).hostRd = s.hostRd := rfl
@[simp] theorem setWork_trace (f : Work → Work) (s : State) : (setWork f s).trace = s.trace := rfl

/-! `pinWrite` -/

@[simp] theorem pinWrite_par (p : Pin) (v : Bool) (s : State) : (pinWrite p v s).par = s.par := rfl
@[simp] theorem pinWrite_sizeSel (p : Pin) (v : Bool) (s : State) : (pinWrite p v s).sizeSel = s.sizeSel := rfl
@[simp] theorem pinWrite_size (p : Pin) (v : Bool) (s : State) : (pinWrite p v s).size = s.size := rfl
@[simp] theorem pinWrite_run (p : Pin) (v : Bool) (s : State) : (pinWrite p v s).run = s.run := rfl
@[simp] theorem pinWrite_st (p : Pin) (v : Bool) (s : State) : (pinWrite p v s).st = s.st := rfl
@[simp] theorem pinWrite_args (p : Pin) (v : Bool) (s : State) : (pinWrite p v s).args = s.args := rfl
@[simp] theorem pinWrite_toff (p : Pin) (v : Bool) (s : State) : (pinWrite p v s).toff = s.toff := rfl
@[simp] theorem pinWrite_psm (p : Pin) (v : Bool) (s : State) : (pinWrite p v s).psm = s.psm := rfl
@[simp] theorem pinWrite_pos (p : Pin) (v : Bool) (s : State) : (pinWrite p v s).pos = s.pos := rfl
@[simp] theorem pinWrite_work (p : Pin) (v : Bool) (s : State) : (pinWrite p v s).work = s.work := rfl
@[simp] theorem pinWrite_rxcap (p : Pin) (v : Bool) (s : State) : (pinWrite p v s).rxcap = s.rxcap := rfl
@[simp] theorem pinWrite_pins (p : Pin) (v : Bool) (s : State) : (pinWrite p v s).pins = s.pins.set p v := rfl
@[simp] theorem pinWrite_busEn (p : Pin) (v : Bool) (s : State) : (pinWrite p v s).busEn = s.busEn := rfl
@[simp] theorem pinWrite_mem (p : Pin) (v : Bool) (s : State) : (pinWrite p v s).mem = s.mem := rfl
@[simp] theorem pinWrite_env (p : Pin) (v : Bool) (s : State) : (pinWrite p v s).env = s.env := rfl
@[simp] theorem pinWrite_rxSeen (p : Pin) (v : Bool) (s : State) : (pinWrite p v s).rxSeen = s.rxSeen := rfl
@[simp] theorem pinWrite_waitSeen (p : Pin) (v : Bool) (s : State) : (pinWrite p v s).waitSeen = s.waitSeen := rfl
@[simp] theorem pinWrite_clockSeen (p : Pin) (v : Bool) (s : State) : (pinWrite p v s).clockSeen = s.clockSeen := rfl
@[simp] theorem pinWrite_sel (p : Pin) (v : Bool) (s : State) : (pinWrite p v s).sel = s.sel := rfl
@[simp] theorem pinWrite_returns (p : Pin) (v : Bool) (s : State) : (pinWrite p v s).returns = s.returns := rfl
@[simp] theorem pinWrite_hostQ (p : Pin) (v : Bool) (s : State) : (pinWrite p v s).hostQ = s.hostQ := rfl
@[simp] theorem pinWrite_hostRd (p : Pin) (v : Bool) (s : State) : (pinWrite p v s).hostRd = s.hostRd := rfl
@[simp] theorem pinWrite_trace (p : Pin) (v : Bool) (s : State) : (pinWrite p v s).trace = s.trace ++ [.pin p v] := rfl

/-! `xfer` -/

@[simp] theorem xfer_par (b : Byte) (s : State) : (xfer b s).par = s.par := rfl
@[simp] theorem xfer_sizeSel (b : Byte) (s : State) : (xfer b s).sizeSel = s.sizeSel := rfl
@[simp] theorem xfer_size (b : Byte) (s : State) : (xfer b s).size = s.size := rfl
@[simp] theorem xfer_run (b : Byte) (s : State) : (xfer b s).run = s.run := rfl
@[simp] theorem xfer_st (b : Byte) (s : State) : (xfer b s).st = s.st := rfl
@[simp] theorem xfer_args (b : Byte) (s : State) : (xfer b s).args = s.args := rfl
@[simp] theorem xfer_toff (b : Byte) (s : State) : (xfer b s).toff = s.toff := rfl
@[simp] theorem xfer_psm (b : Byte) (s : State) : (xfer b s).psm = s.psm := rfl
@[simp] theorem xfer_pos (b : Byte) (s : State) : (xfer b s).pos = s.pos := rfl
@[simp] theorem xfer_work (b : Byte) (s : State) : (xfer b s).work = { s.work with rx := s.env.rxAt s.rxSeen } := rfl
@[simp] theorem xfer_rxcap (b : Byte) (s : State) : (xfer b s).rxcap = s.rxcap := rfl
@[simp] theorem xfer_pins (b : Byte) (s : State) : (xfer b s).pins = s.pins := rfl
@[simp] theorem xfer_busEn (b : Byte) (s : State) : (xfer b s).busEn = s.busEn := rfl
@[simp] theorem xfer_mem (b : Byte) (s : State) : (xfer b s).mem = s.mem := rfl
@[simp] theorem xfer_env (b : Byte) (s : State) : (xfer b s).env = s.env := rfl
@[simp] theorem xfer_rxSeen (b : Byte) (s : State) : (xfer b s).rxSeen = s.rxSeen + 1 := rfl
@[simp] theorem xfer_waitSeen (b : Byte) (s : State) : (xfer b s).waitSeen = s.waitSeen := rfl
@[simp] theorem xfer_clockSeen (b : Byte) (s : State) : (xfer b s).clockSeen = s.clockSeen := rfl
@[simp] theorem xfer_sel (b : Byte) (s : State) : (xfer b s).sel = s.sel := rfl
@[simp] theorem xfer_returns (b : Byte) (s : State) : (xfer b s).returns = s.returns := rfl
@[simp] theorem xfer_hostQ (b : Byte) (s : State) : (xfer b s).hostQ = s.hostQ := rfl
@[simp] theorem xfer_hostRd (b : Byte) (s : State) : (xfer b s).hostRd = s.hostRd := rfl
@[simp] theorem xfer_trace (b : Byte) (s : State) : (xfer b s).trace = s.trace ++ [.xfer b (s.env.rxAt s.rxSeen)] := rfl

/-! `delayMs` -/

@[simp] theorem delayMs_par (n : Nat) (s : State) : (delayMs n s).par = s.par := rfl
@[simp] theorem delayMs_sizeSel (n : Nat) (s : State) : (delayMs n s).sizeSel = s.sizeSel := rfl
@[simp] theorem delayMs_size (n : Nat) (s : State) : (delayMs n s).size = s.size := rfl
@[simp] theorem delayMs_run (n : Nat) (s : State) : (delayMs n s).run = s.run := rfl
@[simp] theorem delayMs_st (n : Nat) (s : State) : (delayMs n s).st = s.st := rfl
@[simp] theorem delayMs_args (n : Nat) (s : State) : (delayMs n s).args = s.args := rfl
@[simp] theorem delayMs_toff (n : Nat) (s : State) : (delayMs n s).toff = s.toff := rfl
@[simp] theorem delayMs_psm (n : Nat) (s : State) : (delayMs n s).psm = s.psm := rfl
@[simp] theorem delayMs_pos (n : Nat) (s : State) : (delayMs n s).pos = s.pos := rfl
@[simp] theorem delayMs_work (n : Nat) (s : State) : (delayMs n s).work = s.work := rfl
@[simp] theorem delayMs_rxcap (n : Nat) (s : State) : (delayMs n s).rxcap = s.rxcap := rfl
@[simp] theorem delayMs_pins (n : Nat) (s : State) : (delayMs n s).pins = s.pins := rfl
@[simp] theorem delayMs_busEn (n : Nat) (s : State) : (delayMs n s).busEn = s.busEn := rfl
@[simp] theorem delayMs_mem (n : Nat) (s : State) : (delayMs n s).mem = s.mem := rfl
@[simp] theorem delayMs_env (n : Nat) (s : State) : (delayMs n s).env = s.env := rfl
@[simp] theorem delayMs_rxSeen (n : Nat) (s : State) : (delayMs n s).rxSeen = s.rxSeen := rfl
@[simp] theorem delayMs_waitSeen (n : Nat) (s : State) : (delayMs n s).waitSeen = s.waitSeen := rfl
@[simp] theorem delayMs_clockSeen (n : Nat) (s : State) : (delayMs n s).clockSeen = s.clockSeen := rfl
@[simp] theorem delayMs_sel (n : Nat) (s : State) : (delayMs n s).sel = s.sel := rfl
@[simp] theorem delayMs_returns (n : Nat) (s : State) : (delayMs n s).returns = s.returns := rfl
@[simp] theorem delayMs_hostQ (n : Nat) (s : State) : (delayMs n s).hostQ = s.hostQ := rfl
@[simp] theorem delayMs_hostRd (n : Nat) (s : State) : (delayMs n s).hostRd = s.hostRd := rfl
@[simp] theorem delayMs_trace (n : Nat) (s : State) : (delayMs n s).trace = s.trace ++ [.delayMs n] := rfl

/-! `delayUs` -/

@[simp] theorem delayUs_par (n : Nat) (s : State) : (delayUs n s).par = s.par := rfl
@[simp] theorem delayUs_sizeSel (n : Nat) (s : State) : (delayUs n s).sizeSel = s.sizeSel := rfl
@[simp] theorem delayUs_size (n : Nat) (s : State) : (delayUs n s).size = s.size := rfl
@[simp] theorem delayUs_run (n : Nat) (s : State) : (delayUs n s).run = s.run := rfl
@[simp] theorem delayUs_st (n : Nat) (s : State) : (delayUs n s).st = s.st := rfl
@[simp] theorem delayUs_args (n : Nat) (s : State) : (delayUs n s).args = s.args := rfl
@[simp] theorem delayUs_toff (n : Nat) (s : State) : (delayUs n s).toff = s.toff := rfl
@[simp] theorem delayUs_psm (n : Nat) (s : State) : (delayUs n s).psm = s.psm := rfl
@[simp] theorem delayUs_pos (n : Nat) (s : State) : (delayUs n s).pos = s.pos := rfl
@[simp] theorem delayUs_work (n : Nat) (s : State) : (delayUs n s).work = s.work := rfl
@[simp] theorem delayUs_rxcap (n : Nat) (s : State) : (delayUs n s).rxcap = s.rxcap := rfl
@[simp] theorem delayUs_pins (n : Nat) (s : State) : (delayUs n s).pins = s.pins := rfl
@[simp] theorem delayUs_busEn (n : Nat) (s : State) : (delayUs n s).busEn = s.busEn := rfl
@[simp] theorem delayUs_mem (n : Nat) (s : State) : (delayUs n s).mem = s.mem := rfl
@[simp] theorem delayUs_env (n : Nat) (s : State) : (delayUs n s).env = s.env := rfl
@[simp] theorem delayUs_rxSeen (n : Nat) (s : State) : (delayUs n s).rxSeen = s.rxSeen := rfl
@[simp] theorem delayUs_waitSeen (n : Nat) (s : State) : (delayUs n s).waitSeen = s.waitSeen := rfl
@[simp] theorem delayUs_clockSeen (n : Nat) (s : State) : (delayUs n s).clockSeen = s.clockSeen := rfl
@[simp] theorem delayUs_sel (n : Nat) (s : State) : (delayUs n s).sel = s.sel := rfl
@[simp] theorem delayUs_returns (n : Nat) (s : State) : (delayUs n s).returns = s.returns := rfl
@[simp] theorem delayUs_hostQ (n : Nat) (s : State) : (delayUs n s).hostQ = s.hostQ := rfl
@[simp] theorem delayUs_hostRd (n : Nat) (s : State) : (delayUs n s).hostRd = s.hostRd := rfl
@[simp] theorem delayUs_trace (n : Nat) (s : State) : (delayUs n s).trace = s.trace ++ [.delayUs n] := rfl

/-! `setStatus` -/

@[simp] theorem setStatus_par (c : Status) (s : State) : (setStatus c s).par = s.par := rfl
@[simp] theorem setStatus_sizeSel (c : Status) (s : State) : (setStatus c s).sizeSel = s.sizeSel := rfl
@[simp] theorem setStatus_size (c : Status) (s : State) : (setStatus c s).size = s.size := rfl
@[simp] theorem setStatus_run (c : Status) (s : State) : (setStatus c s).run = s.run := rfl
@[simp] theorem setStatus_st (c : Status) (s : State) : (setStatus c s).st = c := rfl
@[simp] theorem setStatus_args (c : Status) (s : State) : (setStatus c s).args = s.args := rfl
@[simp] theorem setStatus_toff (c : Status) (s : State) : (setStatus c s).toff = s.toff := rfl
@[simp] theorem setStatus_psm (c : Status) (s : State) : (setStatus c s).psm = s.psm := rfl
@[simp] theorem setStatus_pos (c : Status) (s : State) : (setStatus c s).pos = s.pos := rfl
@[simp] theorem setStatus_work (c : Status) (s : State) : (setStatus c s).work = s.work := rfl
@[simp] theorem setStatus_rxcap (c : Status) (s : State) : (setStatus c s).rxcap = s.rxcap := rfl
@[simp] theorem setStatus_pins (c : Status) (s : State) : (setStatus c s).pins = s.pins := rfl
@[simp] theorem setStatus_busEn (c : Status) (s : State) : (setStatus c s).busEn = s.busEn := rfl
@[simp] theorem setStatus_mem (c : Status) (s : State) : (setStatus c s).mem = s.mem := rfl
@[simp] theorem setStatus_env (c : Status) (s : State) : (setStatus c s).env = s.env := rfl
@[simp] theorem setStatus_rxSeen (c : Status) (s : State) : (setStatus c s).rxSeen = s.rxSeen := rfl
@[simp] theorem setStatus_waitSeen (c : Status) (s : State) : (setStatus c s).waitSeen = s.waitSeen := rfl
@[simp] theorem setStatus_clockSeen (c : Status) (s : State) : (setStatus c s).clockSeen = s.clockSeen := rfl
@[simp] theorem setStatus_sel (c : Status) (s : State) : (setStatus c s).sel = s.sel := rfl
@[simp] theorem setStatus_returns (c : Status) (s : State) : (setStatus c s).returns = s.returns := rfl
@[simp] theorem setStatus_hostQ (c : Status) (s : State) : (setStatus c s).hostQ = s.hostQ := rfl
@[simp] theorem setStatus_hostRd (c : Status) (s : State) : (setStatus c s).hostRd = s.hostRd := rfl
@[simp] theorem setStatus_trace (c : Status) (s : State) : (setStatus c s).trace = s.trace ++ [.status c] := rfl

/-! `setPsm` -/

@[simp] theorem setPsm_par (q : Psm) (s : State) : (setPsm q s).par = s.par := rfl
@[simp] theorem setPsm_sizeSel (q : Psm) (s : State) : (setPsm q s).sizeSel = s.sizeSel := rfl
@[simp] theorem setPsm_size (q : Psm) (s : State) : (setPsm q s).size = s.size := rfl
@[simp] theorem setPsm_run (q : Psm) (s : State) : (setPsm q s).run = s.run := rfl
@[simp] theorem setPsm_st (q : Psm) (s : State) : (setPsm q s).st = s.st := rfl
@[simp] theorem setPsm_args (q : Psm) (s : State) : (setPsm q s).args = s.args := rfl
@[simp] theorem setPsm_toff (q : Psm) (s : State) : (setPsm q s).toff = s.toff := rfl
@[simp] theorem setPsm_psm (q : Psm) (s : State) : (setPsm q s).psm = q := rfl
@[simp] theorem setPsm_pos (q : Psm) (s : State) : (setPsm q s).pos = s.pos := rfl
@[simp] theorem setPsm_work (q : Psm) (s : State) : (setPsm q s).work = s.work := rfl
@[simp] theorem setPsm_rxcap (q : Psm) (s : State) : (setPsm q s).rxcap = s.rxcap := rfl
@[simp] theorem setPsm_pins (q : Psm) (s : State) : (setPsm q s).pins = s.pins := rfl
@[simp] theorem setPsm_busEn (q : Psm) (s : State) : (setPsm q s).busEn = s.busEn := rfl
@[simp] theorem setPsm_mem (q : Psm) (s : State) : (setPsm q s).mem = s.mem := rfl
@[simp] theorem setPsm_env (q : Psm) (s : State) : (setPsm q s).env = s.env := rfl
@[simp] theorem setPsm_rxSeen (q : Psm) (s : State) : (setPsm q s).rxSeen = s.rxSeen := rfl
@[simp] theorem setPsm_waitSeen (q : Psm) (s : State) : (setPsm q s).waitSeen = s.waitSeen := rfl
@[simp] theorem setPsm_clockSeen (q : Psm) (s : State) : (setPsm q s).clockSeen = s.clockSeen := rfl
@[simp] theorem setPsm_sel (q : Psm) (s : State) : (setPsm q s).sel = s.sel := rfl
@[simp] theorem setPsm_returns (q : Psm) (s : State) : (setPsm q s).returns = s.returns := rfl
@[simp] theorem setPsm_hostQ (q : Psm) (s : State) : (setPsm q s).hostQ = s.hostQ := rfl
@[simp] theorem setPsm_hostRd (q : Psm) (s : State) : (setPsm q s).hostRd = s.hostRd := rfl
@[simp] theorem setPsm_trace (q : Psm) (s : State) : (setPsm q s).trace = s.trace := rfl

/-! `nowMs` -/

@[simp] theorem nowMs_par (f : Nat → Work → Work) (s : State) : (nowMs f s).par = s.par := rfl
@[simp] theorem nowMs_sizeSel (f : Nat → Work → Work) (s : State) : (nowMs f s).sizeSel = s.sizeSel := rfl
@[simp] theorem nowMs_size (f : Nat → Work → Work) (s : State) : (nowMs f s).size = s.size := rfl
@[simp] theorem nowMs_run (f : Nat → Work → Work) (s : State) : (nowMs f s).run = s.run := rfl
@[simp] theorem nowMs_st (f : Nat → Work → Work) (s : State) : (nowMs f s).st = s.st := rfl
@[simp] theorem nowMs_args (f : Nat → Work → Work) (s : State) : (nowMs f s).args = s.args := rfl
@[simp] theorem nowMs_toff (f : Nat → Work → Work) (s : State) : (nowMs f s).toff = s.toff := rfl
@[simp] theorem nowMs_psm (f : Nat → Work → Work) (s : State) : (nowMs f s).psm = s.psm := rfl
@[simp] theorem nowMs_pos (f : Nat → Work → Work) (s : State) : (nowMs f s).pos = s.pos := rfl
@[simp] theorem nowMs_work (f : Nat → Work → Work) (s : State) : (nowMs f s).work = f (nowSample s) s.work := rfl
@[simp] theorem nowMs_rxcap (f : Nat → Work → Work) (s : State) : (nowMs f s).rxcap = s.rxcap := rfl
@[simp] theorem nowMs_pins (f : Nat → Work → Work) (s : State) : (nowMs f s).pins = s.pins := rfl
@[simp] theorem nowMs_busEn (f : Nat → Work → Work) (s : State) : (nowMs f s).busEn = s.busEn := rfl
@[simp] theorem nowMs_mem (f : Nat → Work → Work) (s : State) : (nowMs f s).mem = s.mem := rfl
@[simp] theorem nowMs_env (f : Nat → Work → Work) (s : State) : (nowMs f s).env = s.env := rfl
@[simp] theorem nowMs_rxSeen (f : Nat → Work → Work) (s : State) : (nowMs f s).rxSeen = s.rxSeen := rfl
@[simp] theorem nowMs_waitSeen (f : Nat → Work → Work) (s : State) : (nowMs f s).waitSeen = s.waitSeen := rfl
@[simp] theorem nowMs_clockSeen (f : Nat → Work → Work) (s : State) : (nowMs f s).clockSeen = s.clockSeen + 1 := rfl
@[simp] theorem nowMs_sel (f : Nat → Work → Work) (s : State) : (nowMs f s).sel = s.sel := rfl
@[simp] theorem nowMs_returns (f : Nat → Work → Work) (s : State) : (nowMs f s).returns = s.returns := rfl
@[simp] theorem nowMs_hostQ (f : Nat → Work → Work) (s : State) : (nowMs f s).hostQ = s.hostQ := rfl
@[simp] theorem nowMs_hostRd (f : Nat → Work → Work) (s : State) : (nowMs f s).hostRd = s.hostRd := rfl
@[simp] theorem nowMs_trace (f : Nat → Work → Work) (s : State) : (nowMs f s).trace = s.trace ++ [.clock (nowSample s)] := rfl

/-! `memRead` -/

@[simp] theorem memRead_par (a : Nat) (s : State) : (memRead a s).par = s.par := rfl
@[simp] theorem memRead_sizeSel (a : Nat) (s : State) : (memRead a s).sizeSel = s.sizeSel := rfl
@[simp] theorem memRead_size (a : Nat) (s : State) : (memRead a s).size = s.size := rfl
@[simp] theorem memRead_run (a : Nat) (s : State) : (memRead a s).run = s.run := rfl
@[simp] theorem memRead_st (a : Nat) (s : State) : (memRead a s).st = s.st := rfl
@[simp] theorem memRead_args (a : Nat) (s : State) : (memRead a s).args = s.args := rfl
@[simp] theorem memRead_toff (a : Nat) (s : State) : (memRead a s).toff = s.toff := rfl
@[simp] theorem memRead_psm (a : Nat) (s : State) : (memRead a s).psm = s.psm := rfl
@[simp] theorem memRead_pos (a : Nat) (s : State) : (memRead a s).pos = s.pos := rfl
@[simp] theorem memRead_work (a : Nat) (s : State) : (memRead a s).work = s.work := rfl
@[simp] theorem memRead_rxcap (a : Nat) (s : State) : (memRead a s).rxcap = s.rxcap := rfl
@[simp] theorem memRead_pins (a : Nat) (s : State) : (memRead a s).pins = s.pins := rfl
@[simp] theorem memRead_busEn (a : Nat) (s : State) : (memRead a s).busEn = s.busEn := rfl
@[simp] theorem memRead_mem (a : Nat) (s : State) : (memRead a s).mem = s.mem := rfl
@[simp] theorem memRead_env (a : Nat) (s : State) : (memRead a s).env = s.env := rfl
@[simp] theorem memRead_rxSeen (a : Nat) (s : State) : (memRead a s).rxSeen = s.rxSeen := rfl
@[simp] theorem memRead_waitSeen (a : Nat) (s : State) : (memRead a s).waitSeen = s.waitSeen := rfl
@[simp] theorem memRead_clockSeen (a : Nat) (s : State) : (memRead a s).clockSeen = s.clockSeen := rfl
@[simp] theorem memRead_sel (a : Nat) (s : State) : (memRead a s).sel = s.sel := rfl
@[simp] theorem memRead_returns (a : Nat) (s : State) : (memRead a s).returns = s.returns := rfl
@[simp] theorem memRead_hostQ (a : Nat) (s : State) : (memRead a s).hostQ = s.hostQ := rfl
@[simp] theorem memRead_hostRd (a : Nat) (s : State) : (memRead a s).hostRd = s.hostRd := rfl
@[simp] theorem memRead_trace (a : Nat) (s : State) : (memRead a s).trace = s.trace ++ [.mem a (memByte a s)] := rfl

/-! `busOn` -/

@[simp] theorem busOn_par (s : State) : (busOn s).par = s.par := rfl
@[simp] theorem busOn_sizeSel (s : State) : (busOn s).sizeSel = s.sizeSel := rfl
@[simp] theorem busOn_size (s : State) : (busOn s).size = s.size := rfl
@[simp] theorem busOn_run (s : State) : (busOn s).run = s.run := rfl
@[simp] theorem busOn_st (s : State) : (busOn s).st = s.st := rfl
@[simp] theorem busOn_args (s : State) : (busOn s).args = s.args := rfl
@[simp] theorem busOn_toff (s : State) : (busOn s).toff = s.toff := rfl
@[simp] theorem busOn_psm (s : State) : (busOn s).psm = s.psm := rfl
@[simp] theorem busOn_pos (s : State) : (busOn s).pos = s.pos := rfl
@[simp] theorem busOn_work (s : State) : (busOn s).work = s.work := rfl
@[simp] theorem busOn_rxcap (s : State) : (busOn s).rxcap = s.rxcap := rfl
@[simp] theorem busOn_pins (s : State) : (busOn s).pins = s.pins := rfl
@[simp] theorem busOn_busEn (s : State) : (busOn s).busEn = true := rfl
@[simp] theorem busOn_mem (s : State) : (busOn s).mem = s.mem := rfl
@[simp] theorem busOn_env (s : State) : (busOn s).env = s.env := rfl
@[simp] theorem busOn_rxSeen (s : State) : (busOn s).rxSeen = s.rxSeen := rfl
@[simp] theorem busOn_waitSeen (s : State) : (busOn s).waitSeen = s.waitSeen := rfl
@[simp] theorem busOn_clockSeen (s : State) : (busOn s).clockSeen = s.clockSeen := rfl
@[simp] theorem busOn_sel (s : State) : (busOn s).sel = s.sel := rfl
@[simp] theorem busOn_returns (s : State) : (busOn s).returns = s.returns := rfl
@[simp] theorem busOn_hostQ (s : State) : (busOn s).hostQ = s.hostQ := rfl
@[simp] theorem busOn_hostRd (s : State) : (busOn s).hostRd = s.hostRd := rfl
@[simp] theorem busOn_trace (s : State) : (busOn s).trace = s.trace ++ [.bus true] := rfl

/-! `busOff` -/

@[simp] theorem busOff_par (s : State) : (busOff s).par = s.par := rfl
@[simp] theorem busOff_sizeSel (s : State) : (busOff s).sizeSel = s.sizeSel := rfl
@[simp] theorem busOff_size (s : State) : (busOff s).size = s.size := rfl
@[simp] theorem busOff_run (s : State) : (busOff s).run = s.run := rfl
@[simp] theorem busOff_st (s : State) : (busOff s).st = s.st := rfl
@[simp] theorem busOff_args (s : State) : (busOff s).args = s.args := rfl
@[simp] theorem busOff_toff (s : State) : (busOff s).toff = s.toff := rfl
@[simp] theorem busOff_psm (s : State) : (busOff s).psm = s.psm := rfl
@[simp] theorem busOff_pos (s : State) : (busOff s).pos = s.pos := rfl
@[simp] theorem busOff_work (s : State) : (busOff s).work = s.work := rfl
@[simp] theorem busOff_rxcap (s : State) : (busOff s).rxcap = s.rxcap := rfl
@[simp] theorem busOff_pins (s : State) : (busOff s).pins = s.pins := rfl
@[simp] theorem busOff_busEn (s : State) : (busOff s).busEn = false := rfl
@[simp] theorem busOff_mem (s : State) : (busOff s).mem = s.mem := rfl
@[simp] theorem busOff_env (s : State) : (busOff s).env = s.env := rfl
@[simp] theorem busOff_rxSeen (s : State) : (busOff s).rxSeen = s.rxSeen := rfl
@[simp] theorem busOff_waitSeen (s : State) : (busOff s).waitSeen = s.waitSeen := rfl
@[simp] theorem busOff_clockSeen (s : State) : (busOff s).clockSeen = s.clockSeen := rfl
@[simp] theorem busOff_sel (s : State) : (busOff s).sel = s.sel := rfl
@[simp] theorem busOff_returns (s : State) : (busOff s).returns = s.returns := rfl
@[simp] theorem busOff_hostQ (s : State) : (busOff s).hostQ = s.hostQ := rfl
@[simp] theorem busOff_hostRd (s : State) : (busOff s).hostRd = s.hostRd := rfl
@[simp] theorem busOff_trace (s : State) : (busOff s).trace = s.trace ++ [.bus false] := rfl

/-! `capture` -/

@[simp] theorem capture_par (k : Nat) (s : State) : (capture k s).par = s.par := rfl
@[simp] theorem capture_sizeSel (k : Nat) (s : State) : (capture k s).sizeSel = s.sizeSel := rfl
@[simp] theorem capture_size (k : Nat) (s : State) : (capture k s).size = s.size := rfl
@[simp] theorem capture_run (k : Nat) (s : State) : (capture k s).run = s.run := rfl
@[simp] theorem capture_st (k : Nat) (s : State) : (capture k s).st = s.st := rfl
@[simp] theorem capture_args (k : Nat) (s : State) : (capture k s).args = s.args := rfl
@[simp] theorem capture_toff (k : Nat) (s : State) : (capture k s).toff = s.toff := rfl
@[simp] theorem capture_psm (k : Nat) (s : State) : (capture k s).psm = s.psm := rfl
@[simp] theorem capture_pos (k : Nat) (s : State) : (capture k s).pos = s.pos := rfl
@[simp] theorem capture_work (k : Nat) (s : State) : (capture k s).work = { s.work with last := s.work.rx } := rfl
@[simp] theorem capture_rxcap (k : Nat) (s : State) : (capture k s).rxcap = s.rxcap.setIfInBounds k s.work.rx := rfl
@[simp] theorem capture_pins (k : Nat) (s : State) : (capture k s).pins = s.pins := rfl
@[simp] theorem capture_busEn (k : Nat) (s : State) : (capture k s).busEn = s.busEn := rfl
@[simp] theorem capture_mem (k : Nat) (s : State) : (capture k s).mem = s.mem := rfl
@[simp] theorem capture_env (k : Nat) (s : State) : (capture k s).env = s.env := rfl
@[simp] theorem capture_rxSeen (k : Nat) (s : State) : (capture k s).rxSeen = s.rxSeen := rfl
@[simp] theorem capture_waitSeen (k : Nat) (s : State) : (capture k s).waitSeen = s.waitSeen := rfl
@[simp] theorem capture_clockSeen (k : Nat) (s : State) : (capture k s).clockSeen = s.clockSeen := rfl
@[simp] theorem capture_sel (k : Nat) (s : State) : (capture k s).sel = s.sel := rfl
@[simp] theorem capture_returns (k : Nat) (s : State) : (capture k s).returns = s.returns := rfl
@[simp] theorem capture_hostQ (k : Nat) (s : State) : (capture k s).hostQ = s.hostQ := rfl
@[simp] theorem capture_hostRd (k : Nat) (s : State) : (capture k s).hostRd = s.hostRd := rfl
@[simp] theorem capture_trace (k : Nat) (s : State) : (capture k s).trace = s.trace := rfl

/-! `noteSelect` -/

@[simp] theorem noteSelect_par (a : Byte) (s : State) : (noteSelect a s).par = s.par := rfl
@[simp] theorem noteSelect_sizeSel (a : Byte) (s : State) : (noteSelect a s).sizeSel = s.sizeSel := rfl
@[simp] theorem noteSelect_size (a : Byte) (s : State) : (noteSelect a s).size = s.size := rfl
@[simp] theorem noteSelect_run (a : Byte) (s : State) : (noteSelect a s).run = s.run := rfl
@[simp] theorem noteSelect_st (a : Byte) (s : State) : (noteSelect a s).st = s.st := rfl
@[simp] theorem noteSelect_args (a : Byte) (s : State) : (noteSelect a s).args = s.args := rfl
@[simp] theorem noteSelect_toff (a : Byte) (s : State) : (noteSelect a s).toff = s.toff := rfl
@[simp] theorem noteSelect_psm (a : Byte) (s : State) : (noteSelect a s).psm = s.psm := rfl
@[simp] theorem noteSelect_pos (a : Byte) (s : State) : (noteSelect a s).pos = s.pos := rfl
@[simp] theorem noteSelect_work (a : Byte) (s : State) : (noteSelect a s).work = s.work := rfl
@[simp] theorem noteSelect_rxcap (a : Byte) (s : State) : (noteSelect a s).rxcap = s.rxcap := rfl
@[simp] theorem noteSelect_pins (a : Byte) (s : State) : (noteSelect a s).pins = s.pins := rfl
@[simp] theorem noteSelect_busEn (a : Byte) (s : State) : (noteSelect a s).busEn = s.busEn := rfl
@[simp] theorem noteSelect_mem (a : Byte) (s : State) : (noteSelect a s).mem = s.mem := rfl
@[simp] theorem noteSelect_env (a : Byte) (s : State) : (noteSelect a s).env = s.env := rfl
@[simp] theorem noteSelect_rxSeen (a : Byte) (s : State) : (noteSelect a s).rxSeen = s.rxSeen := rfl
@[simp] theorem noteSelect_waitSeen (a : Byte) (s : State) : (noteSelect a s).waitSeen = s.waitSeen := rfl
@[simp] theorem noteSelect_clockSeen (a : Byte) (s : State) : (noteSelect a s).clockSeen = s.clockSeen := rfl
@[simp] theorem noteSelect_sel (a : Byte) (s : State) : (noteSelect a s).sel = some a := rfl
@[simp] theorem noteSelect_returns (a : Byte) (s : State) : (noteSelect a s).returns = s.returns := rfl
@[simp] theorem noteSelect_hostQ (a : Byte) (s : State) : (noteSelect a s).hostQ = s.hostQ := rfl
@[simp] theorem noteSelect_hostRd (a : Byte) (s : State) : (noteSelect a s).hostRd = s.hostRd := rfl
@[simp] theorem noteSelect_trace (a : Byte) (s : State) : (noteSelect a s).trace = s.trace := rfl

/-! `ret` -/

@[simp] theorem ret_par (s : State) : (ret s).par = s.par := rfl
@[simp] theorem ret_sizeSel (s : State) : (ret s).sizeSel = s.sizeSel := rfl
@[simp] theorem ret_size (s : State) : (ret s).size = s.size := rfl
@[simp] theorem ret_run (s : State) : (ret s).run = false := rfl
@[simp] theorem ret_st (s : State) : (ret s).st = s.st := rfl
@[simp] theorem ret_args (s : State) : (ret s).args = s.args := rfl
@[simp] theorem ret_toff (s : State) : (ret s).toff = s.toff := rfl
@[simp] theorem ret_psm (s : State) : (ret s).psm = s.psm := rfl
@[simp] theorem ret_pos (s : State) : (ret s).pos = .idle := rfl
@[simp] theorem ret_work (s : State) : (ret s).work = freeWork s.returns := rfl
@[simp] theorem ret_rxcap (s : State) : (ret s).rxcap = s.rxcap := rfl
@[simp] theorem ret_pins (s : State) : (ret s).pins = s.pins := rfl
@[simp] theorem ret_busEn (s : State) : (ret s).busEn = s.busEn := rfl
@[simp] theorem ret_mem (s : State) : (ret s).mem = s.mem := rfl
@[simp] theorem ret_env (s : State) : (ret s).env = s.env := rfl
@[simp] theorem ret_rxSeen (s : State) : (ret s).rxSeen = s.rxSeen := rfl
@[simp] theorem ret_waitSeen (s : State) : (ret s).waitSeen = s.waitSeen := rfl
@[simp] theorem ret_clockSeen (s : State) : (ret s).clockSeen = s.clockSeen := rfl
@[simp] theorem ret_sel (s : State) : (ret s).sel = s.sel := rfl
@[simp] theorem ret_returns (s : State) : (ret s).returns = s.returns + 1 := rfl
@[simp] theorem ret_hostQ (s : State) : (ret s).hostQ = s.hostQ := rfl
@[simp] theorem ret_hostRd (s : State) : (ret s).hostRd = s.hostRd := rfl
@[simp] theorem ret_trace (s : State) : (ret s).trace = s.trace := rfl

/-! `selectBand` -/

@[simp] theorem selectBand_par (s : State) : (selectBand s).par = s.par := rfl
@[simp] theorem selectBand_sizeSel (s : State) : (selectBand s).sizeSel = s.sizeSel := rfl
@[simp] theorem selectBand_size (s : State) : (selectBand s).size = s.size := rfl
@[simp] theorem selectBand_run (s : State) : (selectBand s).run = s.run := rfl
@[simp] theorem selectBand_st (s : State) : (selectBand s).st = s.st := rfl
@[simp] theorem selectBand_args (s : State) : (selectBand s).args = s.args := rfl
@[simp] theorem selectBand_toff (s : State) : (selectBand s).toff = bandOffset s.work.temperature := rfl
@[simp] theorem selectBand_psm (s : State) : (selectBand s).psm = s.psm := rfl
@[simp] theorem selectBand_pos (s : State) : (selectBand s).pos = s.pos := rfl
@[simp] theorem selectBand_work (s : State) : (selectBand s).work = s.work := rfl
@[simp] theorem selectBand_rxcap (s : State) : (selectBand s).rxcap = s.rxcap := rfl
@[simp] theorem selectBand_pins (s : State) : (selectBand s).pins = s.pins := rfl
@[simp] theorem selectBand_busEn (s : State) : (selectBand s).busEn = s.busEn := rfl
@[simp] theorem selectBand_mem (s : State) : (selectBand s).mem = s.mem := rfl
@[simp] theorem selectBand_env (s : State) : (selectBand s).env = s.env := rfl
@[simp] theorem selectBand_rxSeen (s : State) : (selectBand s).rxSeen = s.rxSeen := rfl
@[simp] theorem selectBand_waitSeen (s : State) : (selectBand s).waitSeen = s.waitSeen := rfl
@[simp] theorem selectBand_clockSeen (s : State) : (selectBand s).clockSeen = s.clockSeen := rfl
@[simp] theorem selectBand_sel (s : State) : (selectBand s).sel = s.sel := rfl
@[simp] theorem selectBand_returns (s : State) : (selectBand s).returns = s.returns := rfl
@[simp] theorem selectBand_hostQ (s : State) : (selectBand s).hostQ = s.hostQ := rfl
@[simp] theorem selectBand_hostRd (s : State) : (selectBand s).hostRd = s.hostRd := rfl
@[simp] theorem selectBand_trace (s : State) : (selectBand s).trace = s.trace := rfl

/-! `clearAcc` -/

@[simp] theorem clearAcc_par (s : State) : (clearAcc s).par = s.par := rfl
@[simp] theorem clearAcc_sizeSel (s : State) : (clearAcc s).sizeSel = s.sizeSel := rfl
@[simp] theorem clearAcc_size (s : State) : (clearAcc s).size = s.size := rfl
@[simp] theorem clearAcc_run (s : State) : (clearAcc s).run = s.run := rfl
@[simp] theorem clearAcc_st (s : State) : (clearAcc s).st = s.st := rfl
@[simp] theorem clearAcc_args (s : State) : (clearAcc s).args = s.args := rfl
@[simp] theorem clearAcc_toff (s : State) : (clearAcc s).toff = s.toff := rfl
@[simp] theorem clearAcc_psm (s : State) : (clearAcc s).psm = s.psm := rfl
@[simp] theorem clearAcc_pos (s : State) : (clearAcc s).pos = s.pos := rfl
@[simp] theorem clearAcc_work (s : State) : (clearAcc s).work = { s.work with acc := 0 } := rfl
@[simp] theorem clearAcc_rxcap (s : State) : (clearAcc s).rxcap = s.rxcap := rfl
@[simp] theorem clearAcc_pins (s : State) : (clearAcc s).pins = s.pins := rfl
@[simp] theorem clearAcc_busEn (s : State) : (clearAcc s).busEn = s.busEn := rfl
@[simp] theorem clearAcc_mem (s : State) : (clearAcc s).mem = s.mem := rfl
@[simp] theorem clearAcc_env (s : State) : (clearAcc s).env = s.env := rfl
@[simp] theorem clearAcc_rxSeen (s : State) : (clearAcc s).rxSeen = s.rxSeen := rfl
@[simp] theorem clearAcc_waitSeen (s : State) : (clearAcc s).waitSeen = s.waitSeen := rfl
@[simp] theorem clearAcc_clockSeen (s : State) : (clearAcc s).clockSeen = s.clockSeen := rfl
@[simp] theorem clearAcc_sel (s : State) : (clearAcc s).sel = s.sel := rfl
@[simp] theorem clearAcc_returns (s : State) : (clearAcc s).returns = s.returns := rfl
@[simp] theorem clearAcc_hostQ (s : State) : (clearAcc s).hostQ = s.hostQ := rfl
@[simp] theorem clearAcc_hostRd (s : State) : (clearAcc s).hostRd = s.hostRd := rfl
@[simp] theorem clearAcc_trace (s : State) : (clearAcc s).trace = s.trace := rfl

/-! `addElapsed` -/

@[simp] theorem addElapsed_par (s : State) : (addElapsed s).par = s.par := rfl
@[simp] theorem addElapsed_sizeSel (s : State) : (addElapsed s).sizeSel = s.sizeSel := rfl
@[simp] theorem addElapsed_size (s : State) : (addElapsed s).size = s.size := rfl
@[simp] theorem addElapsed_run (s : State) : (addElapsed s).run = s.run := rfl
@[simp] theorem addElapsed_st (s : State) : (addElapsed s).st = s.st := rfl
@[simp] theorem addElapsed_args (s : State) : (addElapsed s).args = s.args := rfl
@[simp] theorem addElapsed_toff (s : State) : (addElapsed s).toff = s.toff := rfl
@[simp] theorem addElapsed_psm (s : State) : (addElapsed s).psm = s.psm := rfl
@[simp] theorem addElapsed_pos (s : State) : (addElapsed s).pos = s.pos := rfl
@[simp] theorem addElapsed_work (s : State) : (addElapsed s).work = { s.work with acc := s.work.acc + elapsed s.par.clockBits s.work.t0 s.work.t1 } := rfl
@[simp] theorem addElapsed_rxcap (s : State) : (addElapsed s).rxcap = s.rxcap := rfl
@[simp] theorem addElapsed_pins (s : State) : (addElapsed s).pins = s.pins := rfl
@[simp] theorem addElapsed_busEn (s : State) : (addElapsed s).busEn = s.busEn := rfl
@[simp] theorem addElapsed_mem (s : State) : (addElapsed s).mem = s.mem := rfl
@[simp] theorem addElapsed_env (s : State) : (addElapsed s).env = s.env := rfl
@[simp] theorem addElapsed_rxSeen (s : State) : (addElapsed s).rxSeen = s.rxSeen := rfl
@[simp] theorem addElapsed_waitSeen (s : State) : (addElapsed s).waitSeen = s.waitSeen := rfl
@[simp] theorem addElapsed_clockSeen (s : State) : (addElapsed s).clockSeen = s.clockSeen := rfl
@[simp] theorem addElapsed_sel (s : State) : (addElapsed s).sel = s.sel := rfl
@[simp] theorem addElapsed_returns (s : State) : (addElapsed s).returns = s.returns := rfl
@[simp] theorem addElapsed_hostQ (s : State) : (addElapsed s).hostQ = s.hostQ := rfl
@[simp] theorem addElapsed_hostRd (s : State) : (addElapsed s).hostRd = s.hostRd := rfl
@[simp] theorem addElapsed_trace (s : State) : (addElapsed s).trace = s.trace := rfl

/-! `accept` -/

@[simp] theorem accept_par (s : State) : (accept s).par = s.par := rfl
@[simp] theorem accept_sizeSel (s : State) : (accept s).sizeSel = s.sizeSel := rfl
@[simp] theorem accept_size (s : State) : (accept s).size = s.size := rfl
@[simp] theorem accept_run (s : State) : (accept s).run = true := rfl
@[simp] theorem accept_st (s : State) : (accept s).st = s.st := rfl
@[simp] theorem accept_args (s : State) : (accept s).args = s.args := rfl
@[simp] theorem accept_toff (s : State) : (accept s).toff = s.toff := rfl
@[simp] theorem accept_psm (s : State) : (accept s).psm = s.psm := rfl
@[simp] theorem accept_pos (s : State) : (accept s).pos = s.pos := rfl
@[simp] theorem accept_rxcap (s : State) : (accept s).rxcap = s.rxcap := rfl
@[simp] theorem accept_pins (s : State) : (accept s).pins = s.pins := rfl
@[simp] theorem accept_busEn (s : State) : (accept s).busEn = s.busEn := rfl
@[simp] theorem accept_mem (s : State) : (accept s).mem = s.mem := rfl
@[simp] theorem accept_env (s : State) : (accept s).env = s.env := rfl
@[simp] theorem accept_rxSeen (s : State) : (accept s).rxSeen = s.rxSeen := rfl
@[simp] theorem accept_waitSeen (s : State) : (accept s).waitSeen = s.waitSeen := rfl
@[simp] theorem accept_clockSeen (s : State) : (accept s).clockSeen = s.clockSeen := rfl
@[simp] theorem accept_sel (s : State) : (accept s).sel = s.sel := rfl
@[simp] theorem accept_returns (s : State) : (accept s).returns = s.returns := rfl
@[simp] theorem accept_hostQ (s : State) : (accept s).hostQ = s.hostQ := rfl
@[simp] theorem accept_hostRd (s : State) : (accept s).hostRd = s.hostRd := rfl
@[simp] theorem accept_trace (s : State) : (accept s).trace = s.trace := rfl
@[simp] theorem accept_work_index (s : State) : (accept s).work.index = s.args.index := rfl
@[simp] theorem accept_work_value (s : State) : (accept s).work.value = s.args.value := rfl
@[simp] theorem accept_work_border (s : State) : (accept s).work.border = s.args.border := rfl
@[simp] theorem accept_work_stage (s : State) : (accept s).work.stage = s.args.stage := rfl
@[simp] theorem accept_work_usesData (s : State) : (accept s).work.usesData = s.args.usesData := rfl
@[simp] theorem accept_work_temperature (s : State) : (accept s).work.temperature = s.args.temperature := rfl
@[simp] theorem accept_work_base (s : State) : (accept s).work.base = s.args.base s.par.addrBits := rfl

/-! The pins -/

@[simp] theorem Pins.set_reset_reset (w : Pins) (v : Bool) : (w.set .reset v).reset = v := rfl
@[simp] theorem Pins.set_reset_panelOn (w : Pins) (v : Bool) : (w.set .reset v).panelOn = w.panelOn := rfl
@[simp] theorem Pins.set_reset_discharge (w : Pins) (v : Bool) : (w.set .reset v).discharge = w.discharge := rfl
@[simp] theorem Pins.set_reset_border (w : Pins) (v : Bool) : (w.set .reset v).border = w.border := rfl
@[simp] theorem Pins.set_reset_cs (w : Pins) (v : Bool) : (w.set .reset v).cs = w.cs := rfl
@[simp] theorem Pins.set_panelOn_reset (w : Pins) (v : Bool) : (w.set .panelOn v).reset = w.reset := rfl
@[simp] theorem Pins.set_panelOn_panelOn (w : Pins) (v : Bool) : (w.set .panelOn v).panelOn = v := rfl
@[simp] theorem Pins.set_panelOn_discharge (w : Pins) (v : Bool) : (w.set .panelOn v).discharge = w.discharge := rfl
@[simp] theorem Pins.set_panelOn_border (w : Pins) (v : Bool) : (w.set .panelOn v).border = w.border := rfl
@[simp] theorem Pins.set_panelOn_cs (w : Pins) (v : Bool) : (w.set .panelOn v).cs = w.cs := rfl
@[simp] theorem Pins.set_discharge_reset (w : Pins) (v : Bool) : (w.set .discharge v).reset = w.reset := rfl
@[simp] theorem Pins.set_discharge_panelOn (w : Pins) (v : Bool) : (w.set .discharge v).panelOn = w.panelOn := rfl
@[simp] theorem Pins.set_discharge_discharge (w : Pins) (v : Bool) : (w.set .discharge v).discharge = v := rfl
@[simp] theorem Pins.set_discharge_border (w : Pins) (v : Bool) : (w.set .discharge v).border = w.border := rfl
@[simp] theorem Pins.set_discharge_cs (w : Pins) (v : Bool) : (w.set .discharge v).cs = w.cs := rfl
@[simp] theorem Pins.set_border_reset (w : Pins) (v : Bool) : (w.set .border v).reset = w.reset := rfl
@[simp] theorem Pins.set_border_panelOn (w : Pins) (v : Bool) : (w.set .border v).panelOn = w.panelOn := rfl
@[simp] theorem Pins.set_border_discharge (w : Pins) (v : Bool) : (w.set .border v).discharge = w.discharge := rfl
@[simp] theorem Pins.set_border_border (w : Pins) (v : Bool) : (w.set .border v).border = v := rfl
@[simp] theorem Pins.set_border_cs (w : Pins) (v : Bool) : (w.set .border v).cs = w.cs := rfl
@[simp] theorem Pins.set_cs_reset (w : Pins) (v : Bool) : (w.set .cs v).reset = w.reset := rfl
@[simp] theorem Pins.set_cs_panelOn (w : Pins) (v : Bool) : (w.set .cs v).panelOn = w.panelOn := rfl
@[simp] theorem Pins.set_cs_discharge (w : Pins) (v : Bool) : (w.set .cs v).discharge = w.discharge := rfl
@[simp] theorem Pins.set_cs_border (w : Pins) (v : Bool) : (w.set .cs v).border = w.border := rfl
@[simp] theorem Pins.set_cs_cs (w : Pins) (v : Bool) : (w.set .cs v).cs = v := rfl

/-! What the state computes depends only on the configuration -/

@[simp] theorem Flow.state_on (s : State) : (Flow.on s).state = s := rfl
@[simp] theorem Flow.state_off (s : State) : (Flow.off s).state = s := rfl
@[simp] theorem Flow.finish_on (s : State) : (Flow.on s).finish = ret s := rfl
@[simp] theorem Flow.finish_off (s : State) : (Flow.off s).finish = s := rfl
@[simp] theorem Flow.andThen_on (s : State) (k : Op) : (Flow.on s).andThen k = k s := rfl
@[simp] theorem Flow.andThen_off (s : State) (k : Op) : (Flow.off s).andThen k = .off s := rfl
@[simp] theorem act_apply (f : State → State) (s : State) : act f s = .on (f s) := rfl
@[simp] theorem inOrder_nil (s : State) : inOrder [] s = .on s := rfl
@[simp] theorem inOrder_cons (o : Op) (rest : List Op) (s : State) :
    inOrder (o :: rest) s = (o s).andThen (inOrder rest) := rfl
@[simp] theorem forEach_nil {α : Type} (f : α → Op) (s : State) : forEach f [] s = .on s := rfl
@[simp] theorem forEach_cons {α : Type} (f : α → Op) (x : α) (rest : List α) (s : State) :
    forEach f (x :: rest) s = (f x s).andThen (forEach f rest) := rfl

/-! `busEnable` and `busDisable` -/

@[simp] theorem busEnable_pins (s : State) : (busEnable s).pins = s.pins := by simp [busEnable]
@[simp] theorem busEnable_rxcap (s : State) : (busEnable s).rxcap = s.rxcap := by simp [busEnable]
@[simp] theorem busEnable_sel (s : State) : (busEnable s).sel = s.sel := by simp [busEnable]
@[simp] theorem busEnable_waitSeen (s : State) : (busEnable s).waitSeen = s.waitSeen := by simp [busEnable]
@[simp] theorem busEnable_par (s : State) : (busEnable s).par = s.par := by simp [busEnable]
@[simp] theorem busEnable_st (s : State) : (busEnable s).st = s.st := by simp [busEnable]
@[simp] theorem busEnable_psm (s : State) : (busEnable s).psm = s.psm := by simp [busEnable]
@[simp] theorem busEnable_toff (s : State) : (busEnable s).toff = s.toff := by simp [busEnable]
@[simp] theorem busEnable_work_acc (s : State) : (busEnable s).work.acc = s.work.acc := by simp [busEnable]
@[simp] theorem busEnable_work_t0 (s : State) : (busEnable s).work.t0 = s.work.t0 := by simp [busEnable]
@[simp] theorem busEnable_work_last (s : State) : (busEnable s).work.last = s.work.last := by simp [busEnable]
@[simp] theorem busEnable_work_dcOk (s : State) : (busEnable s).work.dcOk = s.work.dcOk := by simp [busEnable]
@[simp] theorem busEnable_busEn (s : State) : (busEnable s).busEn = true := by simp [busEnable]
@[simp] theorem busDisable_pins (s : State) : (busDisable s).pins = s.pins := by simp [busDisable]
@[simp] theorem busDisable_rxcap (s : State) : (busDisable s).rxcap = s.rxcap := by simp [busDisable]
@[simp] theorem busDisable_sel (s : State) : (busDisable s).sel = s.sel := by simp [busDisable]
@[simp] theorem busDisable_waitSeen (s : State) : (busDisable s).waitSeen = s.waitSeen := by simp [busDisable]
@[simp] theorem busDisable_par (s : State) : (busDisable s).par = s.par := by simp [busDisable]
@[simp] theorem busDisable_st (s : State) : (busDisable s).st = s.st := by simp [busDisable]
@[simp] theorem busDisable_psm (s : State) : (busDisable s).psm = s.psm := by simp [busDisable]
@[simp] theorem busDisable_toff (s : State) : (busDisable s).toff = s.toff := by simp [busDisable]
@[simp] theorem busDisable_work_acc (s : State) : (busDisable s).work.acc = s.work.acc := by simp [busDisable]
@[simp] theorem busDisable_work_t0 (s : State) : (busDisable s).work.t0 = s.work.t0 := by simp [busDisable]
@[simp] theorem busDisable_work_last (s : State) : (busDisable s).work.last = s.work.last := by simp [busDisable]
@[simp] theorem busDisable_work_dcOk (s : State) : (busDisable s).work.dcOk = s.work.dcOk := by simp [busDisable]
@[simp] theorem busDisable_busEn (s : State) : (busDisable s).busEn = false := by simp [busDisable]

end Sys2Proof.Machine
end

