-- ==== Sys2Proof/Laws/Transport.lean ====
section
/-! SUPPORT. What the framing engine does, said once: whatever the environment answers (`Moved`), and when its waits
end (`Sends`). Provers cite these instead of unfolding an operation. -/

namespace Sys2Proof.Machine

/-! ## Outlines -/

@[simp] theorem outline_nil : outline [] = [] := rfl

@[simp] theorem outline_append (a b : List Event) : outline (a ++ b) = outline a ++ outline b := by
  simp [outline]

@[simp] theorem memAddrs_nil : memAddrs [] = [] := rfl

@[simp] theorem memAddrs_append (a b : List Event) : memAddrs (a ++ b) = memAddrs a ++ memAddrs b := by
  simp [memAddrs]

theorem outline_waitEvents (us : Nat) (k : Nat) :
    outline (waitEvents [.delayUs us] k) = List.replicate k (.delayUs us) := by
  induction k with
  | zero => rfl
  | succ k ih =>
    have : waitEvents [.delayUs us] (k + 1) = [.busy true, .delayUs us] ++ waitEvents [.delayUs us] k := by
      simp [waitEvents, List.replicate_succ]
    rw [this, outline_append, ih]
    rfl

theorem outline_waitEvents_bare (k : Nat) : outline (waitEvents [] k) = [] := by
  induction k with
  | zero => rfl
  | succ k ih =>
    have : waitEvents [] (k + 1) = [.busy true] ++ waitEvents [] k := by simp [waitEvents, List.replicate_succ]
    rw [this, outline_append, ih]
    rfl

theorem memAddrs_waitEvents (gap : List Event) (h : memAddrs gap = []) (k : Nat) : memAddrs (waitEvents gap k) = [] := by
  induction k with
  | zero => rfl
  | succ k ih =>
    have : waitEvents gap (k + 1) = [.busy true] ++ gap ++ waitEvents gap k := by
      simp [waitEvents, List.replicate_succ]
    rw [this, memAddrs_append, memAddrs_append, ih, h]
    rfl

/-! ## Whatever the environment answers -/

/-- What every part of an operation leaves as it was, but those that write `ST`, `PSM`, `TOFF` or another pin. -/
structure Moved (s t : State) : Prop extends Untouched s t where
  st : t.st = s.st
  toff : t.toff = s.toff
  psm : t.psm = s.psm
  reset : t.pins.reset = s.pins.reset
  panelOn : t.pins.panelOn = s.pins.panelOn
  discharge : t.pins.discharge = s.pins.discharge
  border : t.pins.border = s.pins.border
  cap2 : t.rxcap[2] = s.rxcap[2]
  cap3 : t.rxcap[3] = s.rxcap[3]
  grows : s.trace <+: t.trace

theorem Untouched.refl (s : State) : Untouched s s := ⟨rfl, rfl, rfl, rfl, rfl, rfl, rfl, rfl⟩

theorem Untouched.trans {s t u : State} (a : Untouched s t) (b : Untouched t u) : Untouched s u :=
  ⟨b.par.trans a.par, b.sizeSel.trans a.sizeSel, b.size.trans a.size, b.args.trans a.args, b.mem.trans a.mem,
    b.env.trans a.env, b.hostQ.trans a.hostQ, b.hostRd.trans a.hostRd⟩

theorem Moved.refl (s : State) : Moved s s :=
  ⟨.refl s, rfl, rfl, rfl, rfl, rfl, rfl, rfl, rfl, rfl, List.prefix_rfl⟩

theorem Moved.trans {s t u : State} (a : Moved s t) (b : Moved t u) : Moved s u :=
  ⟨a.toUntouched.trans b.toUntouched, b.st.trans a.st, b.toff.trans a.toff, b.psm.trans a.psm, b.reset.trans a.reset,
    b.panelOn.trans a.panelOn, b.discharge.trans a.discharge, b.border.trans a.border, b.cap2.trans a.cap2,
    b.cap3.trans a.cap3, a.grows.trans b.grows⟩

/-- A relation that holds from the state before a part of an operation to the state after it, however it goes. -/
def Always (r : State → State → Prop) (o : Op) : Prop := ∀ s, r s (o s).state

theorem Always.andThen {r : State → State → Prop} (ht : ∀ a b c, r a b → r b c → r a c) {s : State} {f : Flow}
    {k : Op} (h : r s f.state) (hk : Always r k) : r s (f.andThen k).state := by
  cases f with
  | on u => exact ht _ _ _ h (hk u)
  | off u => exact h

theorem Always.inOrder {r : State → State → Prop} (hr : ∀ a, r a a) (ht : ∀ a b c, r a b → r b c → r a c)
    {os : List Op} (h : ∀ o ∈ os, Always r o) : Always r (inOrder os) := by
  induction os with
  | nil => exact fun s => hr s
  | cons o rest ih =>
    intro s
    rw [inOrder_cons]
    exact Always.andThen ht (h o (by simp) s) (ih fun o' ho => h o' (by simp [ho]))

theorem Always.forEach {α : Type} {r : State → State → Prop} (hr : ∀ a, r a a)
    (ht : ∀ a b c, r a b → r b c → r a c) {f : α → Op} {xs : List α} (h : ∀ x ∈ xs, Always r (f x)) :
    Always r (forEach f xs) := by
  induction xs with
  | nil => exact fun s => hr s
  | cons x rest ih =>
    intro s
    rw [forEach_cons]
    exact Always.andThen ht (h x (by simp) s) (ih fun x' hx => h x' (by simp [hx]))

/-- A part that appends events and changes none of the fields `Moved` names. -/
theorem moved_of_append {s t : State} (evs : List Event) (h : t.trace = s.trace ++ evs) (u : Untouched s t)
    (h1 : t.st = s.st) (h2 : t.toff = s.toff) (h3 : t.psm = s.psm) (h4 : t.pins.reset = s.pins.reset)
    (h5 : t.pins.panelOn = s.pins.panelOn) (h6 : t.pins.discharge = s.pins.discharge)
    (h7 : t.pins.border = s.pins.border) (h8 : t.rxcap = s.rxcap) : Moved s t :=
  ⟨u, h1, h2, h3, h4, h5, h6, h7, by rw [h8], by rw [h8], h ▸ List.prefix_append _ _⟩

theorem moved_emit (e : Event) (s : State) : Moved s (emit e s) :=
  moved_of_append [e] rfl ⟨rfl, rfl, rfl, rfl, rfl, rfl, rfl, rfl⟩ rfl rfl rfl rfl rfl rfl rfl rfl

theorem moved_setWork (f : Work → Work) (s : State) : Moved s (setWork f s) :=
  moved_of_append [] (by simp) ⟨rfl, rfl, rfl, rfl, rfl, rfl, rfl, rfl⟩ rfl rfl rfl rfl rfl rfl rfl rfl

theorem moved_cs (v : Bool) (s : State) : Moved s (pinWrite .cs v s) :=
  moved_of_append [.pin .cs v] rfl ⟨rfl, rfl, rfl, rfl, rfl, rfl, rfl, rfl⟩ rfl rfl rfl rfl rfl rfl rfl rfl

theorem moved_xfer (b : Byte) (s : State) : Moved s (xfer b s) :=
  moved_of_append _ rfl ⟨rfl, rfl, rfl, rfl, rfl, rfl, rfl, rfl⟩ rfl rfl rfl rfl rfl rfl rfl rfl

theorem moved_busOn (s : State) : Moved s (busOn s) :=
  moved_of_append _ rfl ⟨rfl, rfl, rfl, rfl, rfl, rfl, rfl, rfl⟩ rfl rfl rfl rfl rfl rfl rfl rfl

theorem moved_busOff (s : State) : Moved s (busOff s) :=
  moved_of_append _ rfl ⟨rfl, rfl, rfl, rfl, rfl, rfl, rfl, rfl⟩ rfl rfl rfl rfl rfl rfl rfl rfl

theorem moved_nowMs (f : Nat → Work → Work) (s : State) : Moved s (nowMs f s) :=
  moved_of_append _ rfl ⟨rfl, rfl, rfl, rfl, rfl, rfl, rfl, rfl⟩ rfl rfl rfl rfl rfl rfl rfl rfl

theorem moved_noteSelect (a : Byte) (s : State) : Moved s (noteSelect a s) :=
  moved_of_append [] (by simp) ⟨rfl, rfl, rfl, rfl, rfl, rfl, rfl, rfl⟩ rfl rfl rfl rfl rfl rfl rfl rfl

theorem moved_ret (s : State) : Moved s (ret s) :=
  moved_of_append [] (by simp) ⟨rfl, rfl, rfl, rfl, rfl, rfl, rfl, rfl⟩ rfl rfl rfl rfl rfl rfl rfl rfl

theorem moved_accept (s : State) : Moved s (accept s) :=
  moved_of_append [] (by simp) ⟨rfl, rfl, rfl, rfl, rfl, rfl, rfl, rfl⟩ rfl rfl rfl rfl rfl rfl rfl rfl

theorem moved_finish {s : State} {f : Flow} (h : Moved s f.state) : Moved s f.finish := by
  cases f with
  | on t => exact h.trans (moved_ret t)
  | off t => exact h

theorem moved_capture {k : Nat} (hk : k < 2) (s : State) : Moved s (capture k s) := by
  refine ⟨⟨rfl, rfl, rfl, rfl, rfl, rfl, rfl, rfl⟩, rfl, rfl, rfl, rfl, rfl, rfl, rfl, ?_, ?_, List.prefix_rfl⟩
  all_goals
    rw [capture_rxcap, Vector.getElem_setIfInBounds]
    split
    · omega
    · rfl

theorem moved_busEnable (s : State) : Moved s (busEnable s) :=
  (moved_busOn s).trans ((moved_xfer 0 _).trans ((moved_xfer 0 _).trans (moved_emit _ _)))

theorem moved_busDisable (s : State) : Moved s (busDisable s) :=
  (moved_xfer 0 s).trans ((moved_xfer 0 _).trans ((moved_emit _ _).trans (moved_busOff _)))

theorem waitWhileBusy_moved (polled : Bool) (gap : List Event) : Always Moved (waitWhileBusy polled gap) := by
  intro s
  unfold waitWhileBusy
  split
  · exact moved_of_append (waitEvents gap _) rfl ⟨rfl, rfl, rfl, rfl, rfl, rfl, rfl, rfl⟩ rfl rfl rfl rfl rfl rfl rfl rfl
  · exact moved_of_append [.busy true] rfl ⟨rfl, rfl, rfl, rfl, rfl, rfl, rfl, rfl⟩ rfl rfl rfl rfl rfl rfl rfl rfl

theorem act_moved {f : State → State} (h : ∀ s, Moved s (f s)) : Always Moved (act f) := h

theorem inOrder_moved {os : List Op} (h : ∀ o ∈ os, Always Moved o) : Always Moved (inOrder os) :=
  Always.inOrder Moved.refl (fun _ _ _ => Moved.trans) h

theorem forEach_moved {α : Type} {f : α → Op} {xs : List α} (h : ∀ x ∈ xs, Always Moved (f x)) :
    Always Moved (forEach f xs) :=
  Always.forEach Moved.refl (fun _ _ _ => Moved.trans) h

theorem xferW_moved (b : Byte) : Always Moved (xferW b) := fun s =>
  (moved_xfer b s).trans (waitWhileBusy_moved false [] _)

theorem writeFramed_moved (bytes : List Byte) : Always Moved (writeFramed bytes) := by
  refine inOrder_moved ?_
  simp only [List.mem_cons, List.not_mem_nil, or_false, forall_eq_or_imp, forall_eq]
  exact ⟨act_moved (moved_cs _), forEach_moved fun b _ => xferW_moved b, act_moved (moved_cs _)⟩

theorem readFramed_moved {bytes : List Byte} (h : bytes.length ≤ 2) : Always Moved (readFramed bytes) := by
  refine inOrder_moved ?_
  simp only [List.mem_cons, List.not_mem_nil, or_false, forall_eq_or_imp, forall_eq]
  refine ⟨act_moved (moved_cs _), forEach_moved fun x hx => ?_, act_moved (moved_cs _)⟩
  have hk : x.2 < 2 := by
    have := List.snd_lt_of_mem_zipIdx hx
    omega
  refine inOrder_moved ?_
  simp only [List.mem_cons, List.not_mem_nil, or_false, forall_eq_or_imp, forall_eq]
  exact ⟨xferW_moved _, act_moved (moved_capture hk)⟩

theorem regSelect_moved (a : Byte) : Always Moved (regSelect a) := by
  refine inOrder_moved ?_
  simp only [List.mem_cons, List.not_mem_nil, or_false, forall_eq_or_imp, forall_eq]
  exact ⟨writeFramed_moved _, act_moved (moved_noteSelect a)⟩

theorem regWrite_moved (a : Byte) (d : RegData → Byte) : Always Moved (regWrite a d) := by
  intro s
  refine inOrder_moved ?_ s
  simp only [List.mem_cons, List.not_mem_nil, or_false, forall_eq_or_imp, forall_eq]
  exact ⟨regSelect_moved a, writeFramed_moved _⟩

theorem regRead_moved (a : Byte) : Always Moved (regRead a) := by
  intro s
  refine inOrder_moved ?_ s
  simp only [List.mem_cons, List.not_mem_nil, or_false, forall_eq_or_imp, forall_eq]
  exact ⟨regSelect_moved a, readFramed_moved (by simp)⟩

theorem idRead_moved : Always Moved idRead := fun s => readFramed_moved (by simp) s

/-! ## When the waits end -/

/-- From `s` to `t` the framing engine has made port events with outline `o`, read the buffer addresses `reads`, waited
`w` times and made `r` transfers; it has changed, of what a claim names, CS, the bus flag, the register last selected,
the capture bytes and the working registers only. -/
structure Sends (s t : State) (o : List Event) (reads : List Nat) (w r : Nat) : Prop extends Untouched s t where
  st : t.st = s.st
  toff : t.toff = s.toff
  psm : t.psm = s.psm
  reset : t.pins.reset = s.pins.reset
  panelOn : t.pins.panelOn = s.pins.panelOn
  discharge : t.pins.discharge = s.pins.discharge
  border : t.pins.border = s.pins.border
  run : t.run = s.run
  pos : t.pos = s.pos
  returns : t.returns = s.returns
  clockSeen : t.clockSeen = s.clockSeen
  waits : t.waitSeen = s.waitSeen + w
  xfers : t.rxSeen = s.rxSeen + r
  events : ∃ evs, t.trace = s.trace ++ evs ∧ outline evs = o ∧ memAddrs evs = reads

theorem Sends.refl (s : State) : Sends s s [] [] 0 0 :=
  ⟨.refl s, rfl, rfl, rfl, rfl, rfl, rfl, rfl, rfl, rfl, rfl, rfl, rfl, rfl, [], by simp⟩

theorem Sends.trans {s t u : State} {o o' : List Event} {m m' : List Nat} {w w' r r' : Nat}
    (a : Sends s t o m w r) (b : Sends t u o' m' w' r') : Sends s u (o ++ o') (m ++ m') (w + w') (r + r') := by
  obtain ⟨e, he, ho, hm⟩ := a.events
  obtain ⟨e', he', ho', hm'⟩ := b.events
  exact ⟨a.toUntouched.trans b.toUntouched, b.st.trans a.st, b.toff.trans a.toff, b.psm.trans a.psm,
    b.reset.trans a.reset, b.panelOn.trans a.panelOn, b.discharge.trans a.discharge, b.border.trans a.border,
    b.run.trans a.run, b.pos.trans a.pos, b.returns.trans a.returns, b.clockSeen.trans a.clockSeen,
    by rw [b.waits, a.waits, Nat.add_assoc], by rw [b.xfers, a.xfers, Nat.add_assoc],
    e ++ e', by rw [he', he, List.append_assoc], by rw [outline_append, ho, ho'], by rw [memAddrs_append, hm, hm']⟩

/-- The same activity under equal names for its outline, reads and counts. -/
theorem Sends.cast {s t : State} {o o' : List Event} {m m' : List Nat} {w w' r r' : Nat} (h : Sends s t o m w r)
    (ho : o = o') (hm : m = m') (hw : w = w') (hr : r = r') : Sends s t o' m' w' r' := by
  subst ho hm hw hr
  exact h

/-- The waits that an activity leaves are still to come. -/
theorem Responsive.after {s t : State} {o : List Event} {m : List Nat} {w r n : Nat} (h : Responsive s (w + n))
    (a : Sends s t o m w r) : Responsive t n := by
  intro k hk
  rw [a.env, a.waits, Nat.add_assoc]
  exact h (w + k) (by omega)

theorem Responsive.mono {s : State} {m n : Nat} (h : Responsive s n) (hm : m ≤ n) : Responsive s m :=
  fun k hk => h k (by omega)

theorem sends_emit (e : Event) (s : State) : Sends s (emit e s) (outline [e]) (memAddrs [e]) 0 0 :=
  ⟨⟨rfl, rfl, rfl, rfl, rfl, rfl, rfl, rfl⟩, rfl, rfl, rfl, rfl, rfl, rfl, rfl, rfl, rfl, rfl, rfl, rfl, rfl,
    [e], rfl, rfl, rfl⟩

theorem sends_setWork (f : Work → Work) (s : State) : Sends s (setWork f s) [] [] 0 0 :=
  ⟨⟨rfl, rfl, rfl, rfl, rfl, rfl, rfl, rfl⟩, rfl, rfl, rfl, rfl, rfl, rfl, rfl, rfl, rfl, rfl, rfl, rfl, rfl,
    [], by simp, rfl, rfl⟩

theorem sends_capture (k : Nat) (s : State) : Sends s (capture k s) [] [] 0 0 :=
  ⟨⟨rfl, rfl, rfl, rfl, rfl, rfl, rfl, rfl⟩, rfl, rfl, rfl, rfl, rfl, rfl, rfl, rfl, rfl, rfl, rfl, rfl, rfl,
    [], by simp, rfl, rfl⟩

theorem sends_noteSelect (a : Byte) (s : State) : Sends s (noteSelect a s) [] [] 0 0 :=
  ⟨⟨rfl, rfl, rfl, rfl, rfl, rfl, rfl, rfl⟩, rfl, rfl, rfl, rfl, rfl, rfl, rfl, rfl, rfl, rfl, rfl, rfl, rfl,
    [], by simp, rfl, rfl⟩

theorem sends_cs (v : Bool) (s : State) : Sends s (pinWrite .cs v s) [.pin .cs v] [] 0 0 :=
  ⟨⟨rfl, rfl, rfl, rfl, rfl, rfl, rfl, rfl⟩, rfl, rfl, rfl, rfl, rfl, rfl, rfl, rfl, rfl, rfl, rfl, rfl, rfl,
    [.pin .cs v], rfl, rfl, rfl⟩

theorem sends_xfer (b : Byte) (s : State) : Sends s (xfer b s) [sent b] [] 0 1 :=
  ⟨⟨rfl, rfl, rfl, rfl, rfl, rfl, rfl, rfl⟩, rfl, rfl, rfl, rfl, rfl, rfl, rfl, rfl, rfl, rfl, rfl, rfl, rfl,
    [.xfer b _], rfl, rfl, rfl⟩

theorem sends_busOn (s : State) : Sends s (busOn s) [.bus true] [] 0 0 :=
  ⟨⟨rfl, rfl, rfl, rfl, rfl, rfl, rfl, rfl⟩, rfl, rfl, rfl, rfl, rfl, rfl, rfl, rfl, rfl, rfl, rfl, rfl, rfl,
    [.bus true], rfl, rfl, rfl⟩

theorem sends_busOff (s : State) : Sends s (busOff s) [.bus false] [] 0 0 :=
  ⟨⟨rfl, rfl, rfl, rfl, rfl, rfl, rfl, rfl⟩, rfl, rfl, rfl, rfl, rfl, rfl, rfl, rfl, rfl, rfl, rfl, rfl, rfl,
    [.bus false], rfl, rfl, rfl⟩

theorem sends_busEnable (s : State) : Sends s (busEnable s) (enableTr s.par.busSettleUs) [] 0 2 :=
  (sends_busOn s).trans ((sends_xfer 0 _).trans ((sends_xfer 0 _).trans (sends_emit _ _)))

theorem sends_busDisable (s : State) : Sends s (busDisable s) (disableTr s.par.busSettleUs) [] 0 2 :=
  (sends_xfer 0 s).trans ((sends_xfer 0 _).trans ((sends_emit _ _).trans (sends_busOff _)))

/-- A wait that ends. -/
theorem waitWhileBusy_ends {polled : Bool} {gap : List Event} {s : State} {k : Nat}
    (h : s.env.waitAt s.waitSeen = some k) :
    waitWhileBusy polled gap s = .on { s with waitSeen := s.waitSeen + 1, trace := s.trace ++ waitEvents gap k } := by
  simp only [waitWhileBusy, h]

/-- A wait that never ends. -/
theorem waitWhileBusy_hangs {polled : Bool} {gap : List Event} {s : State} (h : s.env.waitAt s.waitSeen = none) :
    waitWhileBusy polled gap s
      = .off { s with
          run := true
          pos := .busyWait polled
          waitSeen := s.waitSeen + 1
          trace := s.trace ++ [.busy true] } := by
  simp only [waitWhileBusy, h]

/-- One framed byte whose wait ends: CS, the bus flag, the capture bytes, the register last selected and every working
register but `rx` stay. -/
theorem xferW_sends (b : Byte) (s : State) (h : Responsive s 1) :
    ∃ t, xferW b s = .on t ∧ Sends s t [sent b] [] 1 1 ∧ t.pins = s.pins ∧ t.busEn = s.busEn ∧ t.sel = s.sel
      ∧ t.rxcap = s.rxcap ∧ t.work = { s.work with rx := s.answer 0 } := by
  obtain ⟨k, hk⟩ := Option.isSome_iff_exists.mp (h 0 (by omega))
  rw [Nat.add_zero] at hk
  have hw : (xfer b s).env.waitAt (xfer b s).waitSeen = some k := hk
  refine ⟨_, waitWhileBusy_ends hw, ⟨⟨rfl, rfl, rfl, rfl, rfl, rfl, rfl, rfl⟩, rfl, rfl, rfl, rfl, rfl, rfl,
    rfl, rfl, rfl, rfl, rfl, rfl, rfl, .xfer b (s.env.rxAt s.rxSeen) :: waitEvents [] k, by simp, ?_, ?_⟩, rfl, rfl, rfl, rfl, rfl⟩
  · show outline ([.xfer b _] ++ waitEvents [] k) = _
    rw [outline_append, outline_waitEvents_bare]
    rfl
  · show memAddrs ([.xfer b _] ++ waitEvents [] k) = _
    rw [memAddrs_append, memAddrs_waitEvents _ rfl]
    rfl

/-- Framed bytes whose waits end. -/
theorem xferWs_sends (bytes : List Byte) (s : State) (h : Responsive s bytes.length) :
    ∃ t, forEach xferW bytes s = .on t ∧ Sends s t (bytes.map sent) [] bytes.length bytes.length ∧ t.pins = s.pins
      ∧ t.busEn = s.busEn ∧ t.sel = s.sel ∧ t.rxcap = s.rxcap ∧ t.work.last = s.work.last
      ∧ t.work.dcOk = s.work.dcOk := by
  induction bytes generalizing s with
  | nil => exact ⟨s, rfl, .refl s, rfl, rfl, rfl, rfl, rfl, rfl⟩
  | cons b rest ih =>
    obtain ⟨t, ht, hs, h1, h2, h3, h4, h5⟩ := xferW_sends b s (h.mono (by simp))
    obtain ⟨u, hu, hs', g1, g2, g3, g4, g5, g6⟩ :=
      ih t (Responsive.after (h.mono (by simp [Nat.add_comm])) hs)
    exact ⟨u, by rw [forEach_cons, ht, Flow.andThen_on, hu],
      (hs.trans hs').cast (by simp) rfl (by simp [Nat.add_comm]) (by simp [Nat.add_comm]), g1.trans h1, g2.trans h2,
      g3.trans h3, g4.trans h4, by rw [g5, h5], by rw [g6, h5]⟩

/-- One write frame whose waits end (R215). -/
theorem writeFramed_sends (bytes : List Byte) (s : State) (h : Responsive s bytes.length) :
    ∃ t, writeFramed bytes s = .on t ∧ Sends s t (frameTr bytes) [] bytes.length bytes.length
      ∧ t.pins = { s.pins with cs := true } ∧ t.busEn = s.busEn ∧ t.sel = s.sel ∧ t.rxcap = s.rxcap
      ∧ t.work.last = s.work.last ∧ t.work.dcOk = s.work.dcOk := by
  obtain ⟨t, ht, hs, h1, h2, h3, h4, h5, h6⟩ := xferWs_sends bytes (pinWrite .cs false s) h
  refine ⟨pinWrite .cs true t, ?_, ?_, ?_, ?_, ?_, ?_, ?_, ?_⟩
  · simp [writeFramed, ht]
  · exact ((sends_cs false s).trans (hs.trans (sends_cs true t))).cast (by simp [frameTr]) rfl (by simp) (by simp)
  · rw [pinWrite_pins, h1, pinWrite_pins]
    rfl
  · exact h2
  · exact h3
  · exact h4
  · exact h5
  · exact h6

/-- One two-byte read frame whose waits end (R216): the value read is the answer to the second byte, and the two
answers are captured. -/
theorem readFramed_sends (x y : Byte) (s : State) (h : Responsive s 2) :
    ∃ t, readFramed [x, y] s = .on t ∧ Sends s t (frameTr [x, y]) [] 2 2
      ∧ t.pins = { s.pins with cs := true } ∧ t.busEn = s.busEn ∧ t.sel = s.sel
      ∧ t.rxcap = (s.rxcap.setIfInBounds 0 (s.answer 0)).setIfInBounds 1 (s.answer 1)
      ∧ t.work.last = s.answer 1 ∧ t.work.dcOk = s.work.dcOk := by
  have c0 := sends_cs false s
  obtain ⟨t, ht, hs, h1, h2, h3, h4, h5⟩ := xferW_sends x (pinWrite .cs false s) (Responsive.mono (n := 2) h (by omega))
  have c1 := hs.trans (sends_capture 0 t)
  have hr : Responsive (capture 0 t) 1 := Responsive.after (s := pinWrite .cs false s) (w := 1) (n := 1) h c1
  obtain ⟨u, hu, hs', g1, g2, g3, g4, g5⟩ := xferW_sends y (capture 0 t) hr
  have c2 := hs'.trans (sends_capture 1 u)
  refine ⟨pinWrite .cs true (capture 1 u), ?_, ?_, ?_, ?_, ?_, ?_, ?_, ?_⟩
  · simp [readFramed, ht, hu]
  · exact (c0.trans (c1.trans (c2.trans (sends_cs true _)))).cast (by simp [frameTr]) rfl rfl rfl
  · simp [g1, h1, Pins.set]
  · simp [g2, h2]
  · simp [g3, h3]
  · have ha : (capture 0 t).answer 0 = s.answer 1 := by
      simp only [State.answer, capture_env, capture_rxSeen, hs.env, hs.xfers]
      rfl
    have hb : (pinWrite .cs false s).answer 0 = s.answer 0 := rfl
    rw [pinWrite_rxcap, capture_rxcap, g4, g5, capture_rxcap, h4, h5, pinWrite_rxcap]
    rw [← ha, ← hb]
  · have ha : (capture 0 t).answer 0 = s.answer 1 := by
      simp only [State.answer, capture_env, capture_rxSeen, hs.env, hs.xfers]
      rfl
    simp only [pinWrite_work, capture_work, g5]
    exact ha
  · simp only [pinWrite_work, capture_work, g5, h5]

/-- A select frame whose waits end (R218). -/
theorem regSelect_sends (a : Byte) (s : State) (h : Responsive s 2) :
    ∃ t, regSelect a s = .on t ∧ Sends s t (frameTr [0x70, a]) [] 2 2 ∧ t.pins = { s.pins with cs := true }
      ∧ t.busEn = s.busEn ∧ t.sel = some a ∧ t.rxcap = s.rxcap ∧ t.work.last = s.work.last
      ∧ t.work.dcOk = s.work.dcOk := by
  obtain ⟨t, ht, hs, h1, h2, _, h4, h5, h6⟩ := writeFramed_sends [Config.cmdSelect, a] s h
  exact ⟨noteSelect a t, by simp [regSelect, ht], (hs.trans (sends_noteSelect a t)).cast (by simp [Config.cmdSelect]) rfl rfl rfl,
    h1, h2, rfl, h4, h5, h6⟩

/-- A register write whose waits end (R219). -/
theorem regWrite_sends (a : Byte) (d : RegData → Byte) (s : State) (h : Responsive s 4) :
    ∃ t, regWrite a d s = .on t ∧ Sends s t (writeTr a (d s.par.v)) [] 4 4 ∧ t.pins = { s.pins with cs := true }
      ∧ t.busEn = s.busEn ∧ t.sel = some a ∧ t.rxcap = s.rxcap ∧ t.work.last = s.work.last
      ∧ t.work.dcOk = s.work.dcOk := by
  obtain ⟨t, ht, hs, h1, h2, h3, h4, h5, h6⟩ := regSelect_sends a s (h.mono (by omega))
  obtain ⟨u, hu, hs', g1, g2, g3, g4, g5, g6⟩ :=
    writeFramed_sends [Config.cmdWrite, d s.par.v] t (Responsive.after (w := 2) (n := 2) h hs)
  exact ⟨u, by simp [regWrite, ht, hu], (hs.trans hs').cast (by simp [writeTr, Config.cmdWrite]) rfl rfl rfl,
    by rw [g1, h1], g2.trans h2, g3.trans h3, g4.trans h4, g5.trans h5, g6.trans h6⟩

/-- A register read whose waits end (R221): the value is the answer to its fourth byte. -/
theorem regRead_sends (a : Byte) (s : State) (h : Responsive s 4) :
    ∃ t, regRead a s = .on t ∧ Sends s t (readTr a s.par.rdFill) [] 4 4 ∧ t.pins = { s.pins with cs := true }
      ∧ t.busEn = s.busEn ∧ t.sel = some a
      ∧ t.rxcap = (s.rxcap.setIfInBounds 0 (s.answer 2)).setIfInBounds 1 (s.answer 3)
      ∧ t.work.last = s.answer 3 ∧ t.work.dcOk = s.work.dcOk := by
  obtain ⟨t, ht, hs, h1, h2, h3, h4, _, h6⟩ := regSelect_sends a s (h.mono (by omega))
  obtain ⟨u, hu, hs', g1, g2, g3, g4, g5, g6⟩ :=
    readFramed_sends Config.cmdReadRsp s.par.rdFill t (Responsive.after (w := 2) (n := 2) h hs)
  have hans : ∀ k, t.answer k = s.answer (2 + k) := fun k => by
    rw [State.answer, State.answer, hs.env, hs.xfers, Nat.add_assoc]
  exact ⟨u, by simp [regRead, ht, hu], (hs.trans hs').cast (by simp [readTr, Config.cmdReadRsp]) rfl rfl rfl,
    by rw [g1, h1], g2.trans h2, g3.trans h3, by rw [g4, h4, hans, hans], by rw [g5, hans], g6.trans h6⟩

end Sys2Proof.Machine
end

