-- ==== Sys2Proof/Laws/Draw.lean ====
section
/-! SUPPORT. What a LINE, a fixed-value pass and a visit of a sweep do: whatever the environment answers (`Moved`, and
the capture bytes), and when their waits end (`Sends`). -/

namespace Sys2Proof.Machine

/-! ## Whatever the environment answers -/

/-- What a pixel operation moves: as `Moved`, and the capture bytes stay. -/
def Drew (s t : State) : Prop := Moved s t ∧ t.rxcap = s.rxcap

theorem Drew.refl (s : State) : Drew s s := ⟨.refl s, rfl⟩

theorem Drew.trans {s t u : State} (a : Drew s t) (b : Drew t u) : Drew s u := ⟨a.1.trans b.1, b.2.trans a.2⟩

/-- `Drew` gives the frame the claims name. -/
theorem Drew.drawn {s t : State} (h : Drew s t) : Drawn s t :=
  ⟨h.1.toUntouched, h.1.st, h.1.toff, h.1.psm, h.2, h.1.reset, h.1.panelOn, h.1.discharge, h.1.border⟩

theorem act_drew {f : State → State} (h : ∀ s, Drew s (f s)) : Always Drew (act f) := h

theorem inOrder_drew {os : List Op} (h : ∀ o ∈ os, Always Drew o) : Always Drew (inOrder os) :=
  Always.inOrder Drew.refl (fun _ _ _ => Drew.trans) h

theorem forEach_drew {α : Type} {f : α → Op} {xs : List α} (h : ∀ x ∈ xs, Always Drew (f x)) :
    Always Drew (forEach f xs) :=
  Always.forEach Drew.refl (fun _ _ _ => Drew.trans) h

theorem setWork_drew (f : Work → Work) (s : State) : Drew s (setWork f s) := ⟨moved_setWork f s, rfl⟩

theorem cs_drew (v : Bool) (s : State) : Drew s (pinWrite .cs v s) := ⟨moved_cs v s, rfl⟩

theorem finish_drew {s : State} {f : Flow} (h : Drew s f.state) : Drew s f.finish := by
  cases f with
  | on t => exact h.trans ⟨moved_ret t, rfl⟩
  | off t => exact h

theorem xferW_drew (b : Byte) : Always Drew (xferW b) := fun s => by
  refine ⟨xferW_moved b s, ?_⟩
  unfold xferW waitWhileBusy
  split <;> rfl

theorem writeFramed_drew (bytes : List Byte) : Always Drew (writeFramed bytes) := by
  refine inOrder_drew ?_
  simp only [List.mem_cons, List.not_mem_nil, or_false, forall_eq_or_imp, forall_eq]
  exact ⟨act_drew (cs_drew _), forEach_drew fun b _ => xferW_drew b, act_drew (cs_drew _)⟩

theorem regSelect_drew (a : Byte) : Always Drew (regSelect a) := by
  refine inOrder_drew ?_
  simp only [List.mem_cons, List.not_mem_nil, or_false, forall_eq_or_imp, forall_eq]
  exact ⟨writeFramed_drew _, act_drew fun s => ⟨moved_noteSelect a s, rfl⟩⟩

theorem regWrite_drew (a : Byte) (d : RegData → Byte) : Always Drew (regWrite a d) := by
  intro s
  refine inOrder_drew ?_ s
  simp only [List.mem_cons, List.not_mem_nil, or_false, forall_eq_or_imp, forall_eq]
  exact ⟨regSelect_drew a, writeFramed_drew _⟩

theorem pixelByte_drew (a : LineArgs) (enc : Byte → Stage → Byte) (off : Nat) : Always Drew (pixelByte a enc off) := by
  intro s
  unfold pixelByte
  split
  · exact Drew.trans ⟨moved_emit _ s, rfl⟩ (xferW_drew _ _)
  · exact xferW_drew _ s

theorem lineFrame_drew (a : LineArgs) : Always Drew (lineFrame a) := by
  refine inOrder_drew ?_
  simp only [List.mem_cons, List.not_mem_nil, or_false, forall_eq_or_imp, forall_eq]
  have two : ∀ o o' : Op, Always Drew o → Always Drew o' → Always Drew (inOrder [o, o']) := fun o o' h h' => by
    refine inOrder_drew ?_
    simp only [List.mem_cons, List.not_mem_nil, or_false, forall_eq_or_imp, forall_eq]
    exact ⟨h, h'⟩
  have setB : ∀ b, Always Drew (setByte b) := fun b => act_drew (setWork_drew _)
  exact ⟨act_drew (cs_drew _), xferW_drew _, xferW_drew _,
    fun s => forEach_drew (fun off _ => two _ _ (setB _) (pixelByte_drew a odd off)) s,
    act_drew fun s => setWork_drew _ s,
    fun s => forEach_drew (fun b _ => two _ _ (setB _) (xferW_drew _)) s,
    fun s => forEach_drew (fun off _ => two _ _ (setB _) (pixelByte_drew a even off)) s,
    act_drew (cs_drew _)⟩

theorem lineOp_drew (a : LineArgs) : Always Drew (lineOp a) := by
  refine inOrder_drew ?_
  simp only [List.mem_cons, List.not_mem_nil, or_false, forall_eq_or_imp, forall_eq]
  exact ⟨act_drew fun s => ⟨moved_busEnable s, rfl⟩, regSelect_drew _, lineFrame_drew a, regWrite_drew _ _,
    act_drew fun s => ⟨moved_busDisable s, rfl⟩⟩

theorem framePass_drew (v : Byte) : Always Drew (framePass v) := fun s =>
  forEach_drew (fun i _ => by
    refine inOrder_drew ?_
    simp only [List.mem_cons, List.not_mem_nil, or_false, forall_eq_or_imp, forall_eq]
    exact ⟨act_drew (setWork_drew _), lineOp_drew _⟩) s

theorem timedPass_drew (v : Byte) : Always Drew (timedPass v) := by
  refine inOrder_drew ?_
  simp only [List.mem_cons, List.not_mem_nil, or_false, forall_eq_or_imp, forall_eq]
  exact ⟨act_drew fun s => ⟨moved_nowMs _ s, rfl⟩, framePass_drew v, act_drew fun s => ⟨moved_nowMs _ s, rfl⟩,
    act_drew fun s => setWork_drew _ s⟩

/-- A step that stops inside a loop without an end changes `RUN` and the position only. -/
theorem stop_drew (s : State) (p : Pos) : Drew s { s with run := true, pos := p } :=
  ⟨moved_of_append [] (by simp) ⟨rfl, rfl, rfl, rfl, rfl, rfl, rfl, rfl⟩ rfl rfl rfl rfl rfl rfl rfl rfl, rfl⟩

theorem timedLoop_drew (here : Pos) (v : Byte) (minMs fuel : Nat) : Always Drew (timedLoop here v minMs fuel) := by
  induction fuel with
  | zero => exact fun s => stop_drew s here
  | succ fuel ih =>
    intro s
    refine Always.andThen (r := Drew) (fun _ _ _ => Drew.trans) (timedPass_drew v s) fun t => ?_
    split
    · exact Drew.refl t
    · exact ih t

theorem timedHalves_drew (hs : List (Byte × Nat)) : Always Drew (timedHalves hs) := by
  induction hs with
  | nil => exact Drew.refl
  | cons h rest ih =>
    obtain ⟨v, minMs⟩ := h
    intro s
    exact Always.andThen (r := Drew) (s := s) (fun _ _ _ => Drew.trans)
      (Drew.trans (t := clearAcc s) (setWork_drew _ s) (timedLoop_drew _ v minMs _ (clearAcc s))) ih

theorem resumeTimed_drew (hs : List (Byte × Nat)) : Always Drew (resumeTimed hs) := by
  cases hs with
  | nil => exact Drew.refl
  | cons h rest =>
    intro s
    exact Always.andThen (r := Drew) (s := s) (fun _ _ _ => Drew.trans) (timedLoop_drew _ _ _ _ s)
      (timedHalves_drew rest)

theorem visitOp_drew (real : Nat → LineArgs) (border : Byte) (rep total : Nat) (q : Spot) :
    Always Drew (visitOp real border rep total q) := by
  refine inOrder_drew ?_
  simp only [List.mem_cons, List.not_mem_nil, or_false, forall_eq_or_imp, forall_eq]
  exact ⟨act_drew (setWork_drew _), lineOp_drew _⟩

theorem zeroStepRound_drew (block : Nat) : Always Drew (zeroStepRound block) := fun s =>
  Always.andThen (r := Drew) (s := s) (fun _ _ _ => Drew.trans) (forEach_drew (fun _ _ => visitOp_drew _ _ _ _ _) s)
    fun t => stop_drew t _

theorem sweepOp_drew (q : SweepParams) (real : Nat → LineArgs) : Always Drew (sweepOp q real) := by
  intro s
  unfold sweepOp
  split
  · exact zeroStepRound_drew _ s
  · split
    · exact Drew.refl s
    · exact forEach_drew (fun p _ => visitOp_drew _ _ _ _ p) s

/-! ## When the waits end -/

theorem Untouched.profile {s t : State} (h : Untouched s t) : t.profile = s.profile := by
  rw [State.profile, State.profile, h.par, h.size]

theorem Untouched.lines {s t : State} (h : Untouched s t) : t.lines = s.lines := by
  rw [State.lines, State.lines, h.profile]

theorem Untouched.bpl {s t : State} (h : Untouched s t) : t.bpl = s.bpl := by rw [State.bpl, State.bpl, h.profile]

theorem Untouched.bps {s t : State} (h : Untouched s t) : t.bps = s.bps := by rw [State.bps, State.bps, h.profile]

theorem Untouched.linePixel {s t : State} (h : Untouched s t) (a : LineArgs) (enc : Byte → Stage → Byte) :
    linePixel t a enc = linePixel s a enc := by
  funext off
  rw [Machine.linePixel, Machine.linePixel, h.mem, h.par]

theorem Untouched.lineBytes {s t : State} (h : Untouched s t) (a : LineArgs) : lineBytes t a = lineBytes s a := by
  rw [Machine.lineBytes, Machine.lineBytes, h.linePixel, h.linePixel, h.bpl, h.bps, h.lines]

theorem Untouched.lineTr {s t : State} (h : Untouched s t) (a : LineArgs) : lineTr t a = lineTr s a := by
  rw [Machine.lineTr, Machine.lineTr, h.lineBytes, h.par]

theorem Untouched.lineReads {s t : State} (h : Untouched s t) (a : LineArgs) : lineReads t a = lineReads s a := by
  rw [Machine.lineReads, Machine.lineReads, h.bpl, h.par]

theorem Untouched.lineWaits {s t : State} (h : Untouched s t) : t.lineWaits = s.lineWaits := by
  rw [State.lineWaits, State.lineWaits, h.bpl, h.bps]

theorem Untouched.lineXfers {s t : State} (h : Untouched s t) : t.lineXfers = s.lineXfers := by
  rw [State.lineXfers, State.lineXfers, h.bpl, h.bps]

theorem Untouched.passTr {s t : State} (h : Untouched s t) (v : Byte) : passTr t v = passTr s v := by
  rw [Machine.passTr, Machine.passTr, h.lines, h.par]
  exact congrArg (fun f => List.flatMap f _) (funext fun i => h.lineTr _)

/-- Every pixel byte of a fixed fill is the value, whatever the encoder and the stage (R173). -/
theorem linePixel_fixed {a : LineArgs} (h : a.usesData = false) (s : State) (enc : Byte → Stage → Byte) :
    linePixel s a enc = fun _ => a.value := by
  funext off
  rw [linePixel, if_neg (by rw [h]; exact Bool.false_ne_true)]

/-- The data frame of a fixed fill (R90, R173). -/
theorem lineBytes_fixed {a : LineArgs} (h : a.usesData = false) (s : State) :
    lineBytes s a = 0x72 :: a.border :: (List.replicate s.bpl a.value
      ++ (List.range s.bps).map (scanByte s.lines a.index) ++ List.replicate s.bpl a.value) := by
  rw [lineBytes, linePixel_fixed h, linePixel_fixed h]
  simp

/-- A fixed fill reads no buffer byte (R173). -/
theorem lineReads_fixed {a : LineArgs} (h : a.usesData = false) (s : State) : lineReads s a = [] := by
  rw [lineReads, if_neg (by rw [h]; exact Bool.false_ne_true)]

/-- What a framed byte holds fixed, of the state a frame may change. -/
structure Held (s t : State) : Prop where
  pins : t.pins = s.pins
  busEn : t.busEn = s.busEn
  sel : t.sel = s.sel
  rxcap : t.rxcap = s.rxcap
  last : t.work.last = s.work.last
  acc : t.work.acc = s.work.acc
  t0 : t.work.t0 = s.work.t0

theorem Held.refl (s : State) : Held s s := ⟨rfl, rfl, rfl, rfl, rfl, rfl, rfl⟩

theorem Held.trans {s t u : State} (a : Held s t) (b : Held t u) : Held s u :=
  ⟨b.pins.trans a.pins, b.busEn.trans a.busEn, b.sel.trans a.sel, b.rxcap.trans a.rxcap, b.last.trans a.last,
    b.acc.trans a.acc, b.t0.trans a.t0⟩

theorem xferW_held (b : Byte) (s : State) (h : Responsive s 1) :
    ∃ t, xferW b s = .on t ∧ Sends s t [sent b] [] 1 1 ∧ Held s t := by
  obtain ⟨t, ht, hs, h1, h2, h3, h4, h5⟩ := xferW_sends b s h
  exact ⟨t, ht, hs, h1, h2, h3, h4, by rw [h5], by rw [h5], by rw [h5]⟩

theorem writeFramed_held (bytes : List Byte) (s : State) (h : Responsive s bytes.length) :
    ∃ t, writeFramed bytes s = .on t ∧ t.work.acc = s.work.acc ∧ t.work.t0 = s.work.t0 := by
  have go : ∀ (bs : List Byte) (u : State), Responsive u bs.length →
      ∃ t, forEach xferW bs u = .on t ∧ t.work.acc = u.work.acc ∧ t.work.t0 = u.work.t0 := by
    intro bs
    induction bs with
    | nil => exact fun u _ => ⟨u, rfl, rfl, rfl⟩
    | cons b rest ih =>
      intro u hu
      obtain ⟨t, ht, hs, hh⟩ := xferW_held b u (hu.mono (by simp))
      obtain ⟨w, hw, h1, h2⟩ := ih t (Responsive.after (hu.mono (by simp [Nat.add_comm])) hs)
      exact ⟨w, by rw [forEach_cons, ht, Flow.andThen_on, hw], h1.trans hh.acc, h2.trans hh.t0⟩
  obtain ⟨t, ht, h1, h2⟩ := go bytes (pinWrite .cs false s) h
  exact ⟨pinWrite .cs true t, by simp [writeFramed, ht], h1, h2⟩

/-- The reads of one pixel byte (R171, R173). -/
def pixelReads (s : State) (a : LineArgs) (off : Nat) : List Nat :=
  if a.usesData then [(a.data + off) % 2 ^ s.par.addrBits] else []

theorem pixelByte_sends (a : LineArgs) (enc : Byte → Stage → Byte) (off : Nat) (s : State) (h : Responsive s 1) :
    ∃ t, pixelByte a enc off s = .on t ∧ Sends s t [sent (linePixel s a enc off)] (pixelReads s a off) 1 1
      ∧ Held s t := by
  unfold pixelByte linePixel pixelReads
  by_cases hd : a.usesData = true
  · simp only [hd, if_true]
    obtain ⟨t, ht, hs, hh⟩ :=
      xferW_held (enc (memByte (byteAddr a.data off s.par.addrBits) s) a.stage)
        (memRead (byteAddr a.data off s.par.addrBits) s) h
    exact ⟨t, ht, ((sends_emit (.mem _ _) s).trans hs).cast rfl rfl rfl rfl,
      ⟨hh.pins, hh.busEn, hh.sel, hh.rxcap, hh.last, hh.acc, hh.t0⟩⟩
  · simp only [hd]
    exact xferW_held a.value s h

/-- A loop whose bodies each wait once, send one byte, and read some addresses. -/
theorem loop_sends {f : Nat → Op} {byte : Nat → Byte} {reads : Nat → List Nat} (base : State)
    (h : ∀ x s, Untouched base s → Responsive s 1 →
      ∃ t, f x s = .on t ∧ Sends s t [sent (byte x)] (reads x) 1 1 ∧ Held s t)
    (xs : List Nat) (s : State) (hu : Untouched base s) (hr : Responsive s xs.length) :
    ∃ t, forEach f xs s = .on t ∧ Sends s t ((xs.map byte).map sent) (xs.flatMap reads) xs.length xs.length
      ∧ Held s t := by
  induction xs generalizing s with
  | nil => exact ⟨s, rfl, .refl s, .refl s⟩
  | cons x rest ih =>
    obtain ⟨t, ht, hs, hh⟩ := h x s hu (hr.mono (by simp))
    obtain ⟨u, hu', hs', hh'⟩ :=
      ih t (hu.trans hs.toUntouched) (Responsive.after (hr.mono (by simp [Nat.add_comm])) hs)
    exact ⟨u, by rw [forEach_cons, ht, Flow.andThen_on, hu'],
      (hs.trans hs').cast (by simp) (by simp) (by simp [Nat.add_comm]) (by simp [Nat.add_comm]), hh.trans hh'⟩

/-- A body that sets a working register first. -/
theorem setByte_then {o : Op} {s : State} {b : Nat} {out : List Event} {m : List Nat} {w r : Nat}
    (h : ∃ t, o (setWork (fun w => { w with b := b }) s) = .on t
      ∧ Sends (setWork (fun w => { w with b := b }) s) t out m w r
      ∧ Held (setWork (fun w => { w with b := b }) s) t) :
    ∃ t, inOrder [setByte b, o] s = .on t ∧ Sends s t out m w r ∧ Held s t := by
  obtain ⟨t, ht, hs, hh⟩ := h
  exact ⟨t, by simp [setByte, ht], ((sends_setWork _ s).trans hs).cast rfl rfl (by simp) (by simp),
    ⟨hh.pins, hh.busEn, hh.sel, hh.rxcap, hh.last, hh.acc, hh.t0⟩⟩

theorem pixelLoop_sends (a : LineArgs) (enc : Byte → Stage → Byte) (count : Nat → Nat) (base : State) (xs : List Nat)
    (s : State) (hu : Untouched base s) (hr : Responsive s xs.length) :
    ∃ t, forEach (fun off => inOrder [setByte (count off), pixelByte a enc off]) xs s = .on t
      ∧ Sends s t ((xs.map (linePixel base a enc)).map sent) (xs.flatMap (pixelReads base a)) xs.length xs.length
      ∧ Held s t := by
  refine loop_sends base (fun x u hbu hru => ?_) xs s hu hr
  have := pixelByte_sends a enc x (setWork (fun w => { w with b := count x }) u) hru
  rw [Untouched.linePixel (s := base) (t := setWork _ u) (hbu.trans (sends_setWork _ u).toUntouched),
    show pixelReads (setWork (fun w => { w with b := count x }) u) a x = pixelReads base a x by
      rw [pixelReads, pixelReads, setWork_par, hbu.par]] at this
  exact setByte_then this

theorem scanLoop_sends (a : LineArgs) (lines : Nat) (xs : List Nat) (s : State) (hr : Responsive s xs.length) :
    ∃ t, forEach (fun b => inOrder [setByte b, xferW (scanByte lines a.index b)]) xs s = .on t
      ∧ Sends s t ((xs.map (scanByte lines a.index)).map sent) [] xs.length xs.length ∧ Held s t := by
  obtain ⟨t, ht, hs, hh⟩ := loop_sends (f := fun b => inOrder [setByte b, xferW (scanByte lines a.index b)])
    (byte := scanByte lines a.index) (reads := fun _ => []) s
    (fun x u _ hru => setByte_then (xferW_held (scanByte lines a.index x) (setWork (fun w => { w with b := x }) u) hru))
    xs s (Untouched.refl s) hr
  exact ⟨t, ht, hs.cast rfl (List.flatMap_eq_nil_iff.mpr fun _ _ => rfl) rfl rfl, hh⟩

theorem flatMap_pixelReads (s : State) (a : LineArgs) (xs : List Nat) :
    xs.flatMap (pixelReads s a)
      = if a.usesData then xs.map fun off => (a.data + off) % 2 ^ s.par.addrBits else [] := by
  unfold pixelReads
  split
  · rw [← List.map_eq_flatMap]
  · simp

/-- LINE's data frame whose waits end (R90, R171). -/
theorem lineFrame_sends (a : LineArgs) (s : State) (h : Responsive s (2 + 2 * s.bpl + s.bps)) :
    ∃ t, lineFrame a s = .on t
      ∧ Sends s t (frameTr (lineBytes s a)) (lineReads s a) (2 + 2 * s.bpl + s.bps) (2 + 2 * s.bpl + s.bps)
      ∧ t.pins = { s.pins with cs := true } ∧ t.busEn = s.busEn ∧ t.sel = s.sel ∧ t.rxcap = s.rxcap
      ∧ t.work.last = s.work.last ∧ t.work.acc = s.work.acc ∧ t.work.t0 = s.work.t0 := by
  have s1 := sends_cs false s
  obtain ⟨t1, e1, a1, k1⟩ := xferW_held Config.cmdWrite (pinWrite .cs false s)
    (Responsive.mono (n := 2 + 2 * s.bpl + s.bps) h (by omega))
  have c1 := s1.trans a1
  obtain ⟨t2, e2, a2, k2⟩ := xferW_held a.border t1
    ((Responsive.after (n := 1 + 2 * s.bpl + s.bps) (h.mono (by omega)) c1).mono (by omega))
  have c2 := c1.trans a2
  obtain ⟨t3, e3, a3, k3⟩ := pixelLoop_sends a odd (· + 1) s (List.range s.bpl).reverse t2 c2.toUntouched
    ((Responsive.after (n := 2 * s.bpl + s.bps) (h.mono (by omega)) c2).mono (by simp; omega))
  have c3 := c2.trans a3
  have a4 := sends_setWork (fun w => { w with p := scanPos t3.lines a.index }) t3
  have c4 := c3.trans a4
  obtain ⟨t5, e5, a5, k5⟩ := scanLoop_sends a (setWork (fun w => { w with p := scanPos t3.lines a.index }) t3).lines
    (List.range s.bps) (setWork (fun w => { w with p := scanPos t3.lines a.index }) t3)
    ((Responsive.after (n := s.bpl + s.bps) (h.mono (by simp; omega)) c4).mono (by simp))
  have c5 := c4.trans a5
  obtain ⟨t6, e6, a6, k6⟩ := pixelLoop_sends a even id s (List.range s.bpl) t5 c5.toUntouched
    ((Responsive.after (n := s.bpl) (h.mono (by simp; omega)) c5).mono (by simp))
  have c6 := (c5.trans a6).trans (sends_cs true t6)
  have l4 : (setWork (fun w => { w with p := scanPos t3.lines a.index }) t3).lines = s.lines := c4.toUntouched.lines
  refine ⟨pinWrite .cs true t6, ?_, c6.cast ?_ ?_ ?_ ?_, ?_, ?_, ?_, ?_, ?_, ?_, ?_⟩
  · have b2 : t2.bpl = s.bpl := c2.toUntouched.bpl
    have b4 : (setWork (fun w => { w with p := scanPos t3.lines a.index }) t3).bps = s.bps := c4.toUntouched.bps
    have b5 : t5.bpl = s.bpl := c5.toUntouched.bpl
    simp only [id] at e6
    simp only [lineFrame, oddBytes, scanBytes, evenBytes, inOrder_cons, inOrder_nil, act_apply, Flow.andThen_on, e1, e2,
      b2, e3, b4, e5, b5, e6]
  · rw [l4]
    simp [frameTr, lineBytes, Config.cmdWrite]
  · rw [flatMap_pixelReads, flatMap_pixelReads]
    unfold lineReads
    split <;> simp
  · simp
    omega
  · simp
    omega
  · have : t6.pins = { s.pins with cs := false } := by
      rw [k6.pins, k5.pins, setWork_pins, k3.pins, k2.pins, k1.pins]
      rfl
    rw [pinWrite_pins, this]
    rfl
  · rw [pinWrite_busEn, k6.busEn, k5.busEn, setWork_busEn, k3.busEn, k2.busEn, k1.busEn, pinWrite_busEn]
  · rw [pinWrite_sel, k6.sel, k5.sel, setWork_sel, k3.sel, k2.sel, k1.sel, pinWrite_sel]
  · rw [pinWrite_rxcap, k6.rxcap, k5.rxcap, setWork_rxcap, k3.rxcap, k2.rxcap, k1.rxcap, pinWrite_rxcap]
  · rw [pinWrite_work, k6.last, k5.last, setWork_work, k3.last, k2.last, k1.last, pinWrite_work]
  · rw [pinWrite_work, k6.acc, k5.acc, setWork_work, k3.acc, k2.acc, k1.acc, pinWrite_work]
  · rw [pinWrite_work, k6.t0, k5.t0, setWork_work, k3.t0, k2.t0, k1.t0, pinWrite_work]

/-- The registers of the timed loop that a register select leaves alone, and how it ends. -/
theorem regSelect_held (a : Byte) (s : State) (h : Responsive s 2) :
    ∃ t, regSelect a s = .on t ∧ t.work.acc = s.work.acc ∧ t.work.t0 = s.work.t0 := by
  obtain ⟨t, ht, h1, h2⟩ := writeFramed_held [Config.cmdSelect, a] s h
  exact ⟨noteSelect a t, by simp [regSelect, ht], h1, h2⟩

theorem regWrite_held (a : Byte) (d : RegData → Byte) (s : State) (h : Responsive s 4) :
    ∃ t, regWrite a d s = .on t ∧ t.work.acc = s.work.acc ∧ t.work.t0 = s.work.t0 := by
  obtain ⟨t, ht, hs, -⟩ := regSelect_sends a s (h.mono (by omega))
  obtain ⟨t', ht', h1, h2⟩ := regSelect_held a s (h.mono (by omega))
  obtain rfl : t = t' := by simpa using ht.symm.trans ht'
  obtain ⟨u, hu, g1, g2⟩ :=
    writeFramed_held [Config.cmdWrite, d s.par.v] t (Responsive.after (w := 2) (n := 2) h hs)
  exact ⟨u, by simp [regWrite, ht, hu], g1.trans h1, g2.trans h2⟩

/-- One LINE whose waits end (R171 to R175, R182): its events, its reads, its counts, CS up and the bus off after it. -/
theorem lineOp_sends (a : LineArgs) (s : State) (h : Responsive s s.lineWaits) :
    ∃ t, lineOp a s = .on t ∧ Sends s t (lineTr s a) (lineReads s a) s.lineWaits s.lineXfers
      ∧ t.pins = { s.pins with cs := true } ∧ t.busEn = false ∧ t.sel = some Config.aOe ∧ t.rxcap = s.rxcap
      ∧ t.work.acc = s.work.acc ∧ t.work.t0 = s.work.t0 := by
  have hw : s.lineWaits = 8 + 2 * s.bpl + s.bps := rfl
  have c1 := sends_busEnable s
  obtain ⟨t2, e2, a2, p2, b2, l2, r2, -⟩ := regSelect_sends Config.aData (busEnable s)
    (Responsive.after (n := 2) (h.mono (by omega)) c1)
  obtain ⟨t2', e2', m2, n2⟩ := regSelect_held Config.aData (busEnable s)
    (Responsive.after (n := 2) (h.mono (by omega)) c1)
  obtain rfl : t2 = t2' := by simpa using e2.symm.trans e2'
  have c2 := c1.trans a2
  have f2 : 2 + 2 * t2.bpl + t2.bps = 2 + 2 * s.bpl + s.bps := by rw [c2.toUntouched.bpl, c2.toUntouched.bps]
  obtain ⟨t3, e3, a3, p3, b3, l3, r3, -, m3, n3⟩ := lineFrame_sends a t2
    (by rw [f2]; exact Responsive.after (h.mono (by omega)) c2)
  have c3 := c2.trans a3
  obtain ⟨t4, e4, a4, p4, b4, l4, r4, -⟩ := regWrite_sends Config.aOe RegData.oeCommit t3
    (Responsive.after (n := 4) (h.mono (by omega)) c3)
  obtain ⟨t4', e4', m4, n4⟩ := regWrite_held Config.aOe RegData.oeCommit t3
    (Responsive.after (n := 4) (h.mono (by omega)) c3)
  obtain rfl : t4 = t4' := by simpa using e4.symm.trans e4'
  have c5 := (c3.trans a4).trans (sends_busDisable t4)
  refine ⟨busDisable t4, ?_, c5.cast ?_ ?_ ?_ ?_, ?_, busDisable_busEn t4, (busDisable_sel t4).trans l4, ?_, ?_, ?_⟩
  · simp only [lineOp, inOrder_cons, inOrder_nil, act_apply, Flow.andThen_on, e2, e3, e4]
  · rw [c2.toUntouched.lineBytes, c3.par, (c3.trans a4).par]
    simp [lineTr, Config.aData, Config.aOe, writeTr]
  · rw [c2.toUntouched.lineReads]
    simp
  · rw [f2, hw]
    omega
  · rw [f2, State.lineXfers]
    omega
  · rw [busDisable_pins, p4, p3, p2, busEnable_pins]
  · rw [busDisable_rxcap, r4, r3, r2, busEnable_rxcap]
  · rw [busDisable_work_acc, m4, m3, m2, busEnable_work_acc]
  · rw [busDisable_work_t0, n4, n3, n2, busEnable_work_t0]

/-- A list of LINEs whose waits end (R190, R197): their events one after another, and, unless the list is empty, CS up
and the bus off after them. -/
theorem lines_sends {α : Type} (mk : α → LineArgs) (pre : α → State → State)
    (hp : ∀ x s, Sends s (pre x s) [] [] 0 0 ∧ (pre x s).pins = s.pins ∧ (pre x s).busEn = s.busEn
      ∧ (pre x s).rxcap = s.rxcap ∧ (pre x s).work.acc = s.work.acc ∧ (pre x s).work.t0 = s.work.t0)
    (base : State) (xs : List α) (s : State) (hb : Untouched base s)
    (h : Responsive s (xs.length * base.lineWaits)) :
    ∃ t, forEach (fun x => inOrder [act (pre x), lineOp (mk x)]) xs s = .on t
      ∧ Sends s t (xs.flatMap fun x => lineTr base (mk x)) (xs.flatMap fun x => lineReads base (mk x))
          (xs.length * base.lineWaits) (xs.length * base.lineXfers)
      ∧ t.pins = (if xs = [] then s.pins else { s.pins with cs := true })
      ∧ t.busEn = (if xs = [] then s.busEn else false)
      ∧ t.rxcap = s.rxcap ∧ t.work.acc = s.work.acc ∧ t.work.t0 = s.work.t0 := by
  induction xs generalizing s with
  | nil => exact ⟨s, rfl, (Sends.refl s).cast rfl rfl (by simp) (by simp), by simp, by simp, rfl, rfl, rfl⟩
  | cons x rest ih =>
    obtain ⟨a0, g1, g2, g3, g4, g5⟩ := hp x s
    have u0 := hb.trans a0.toUntouched
    rw [List.length_cons, Nat.succ_mul, Nat.add_comm] at h
    obtain ⟨t, e1, a1, p1, b1, -, r1, m1, n1⟩ := lineOp_sends (mk x) (pre x s) (by
      rw [u0.lineWaits]
      exact Responsive.after (n := base.lineWaits) (h.mono (by omega)) a0)
    have c1 := (a0.trans a1).cast (o' := lineTr base (mk x)) (m' := lineReads base (mk x)) (w' := base.lineWaits)
      (r' := base.lineXfers) (by rw [u0.lineTr]; simp) (by rw [u0.lineReads]; simp) (by rw [u0.lineWaits]; omega)
      (by rw [u0.lineXfers]; omega)
    obtain ⟨v, e2, a2, p2, b2, r2, m2, n2⟩ := ih t (hb.trans c1.toUntouched) (Responsive.after h c1)
    refine ⟨v, ?_, (c1.trans a2).cast ?_ ?_ ?_ ?_, ?_, ?_, ?_, ?_, ?_⟩
    · simp only [forEach_cons, inOrder_cons, inOrder_nil, act_apply, Flow.andThen_on, e1, e2]
    · simp
    · simp
    · rw [List.length_cons, Nat.succ_mul, Nat.add_comm]
    · rw [List.length_cons, Nat.succ_mul, Nat.add_comm]
    · rw [p2, p1, g1]
      simp
    · rw [b2, b1]
      simp
    · rw [r2, r1, g3]
    · rw [m2, m1, g4]
    · rw [n2, n1, g5]

/-- A fixed-value pass whose waits end (R190). -/
theorem framePass_sends (v : Byte) (s : State) (h : Responsive s (s.lines * s.lineWaits)) :
    ∃ t, framePass v s = .on t ∧ Sends s t (passTr s v) [] (s.lines * s.lineWaits) (s.lines * s.lineXfers)
      ∧ t.pins = (if s.lines = 0 then s.pins else { s.pins with cs := true })
      ∧ t.busEn = (if s.lines = 0 then s.busEn else false)
      ∧ t.rxcap = s.rxcap ∧ t.work.acc = s.work.acc ∧ t.work.t0 = s.work.t0 := by
  have hl : (passLines s.par.passOrder s.lines).length = s.lines := by
    unfold passLines
    split <;> simp
  have h0 : passLines s.par.passOrder s.lines = [] ↔ s.lines = 0 := by
    rw [← List.length_eq_zero_iff, hl]
  obtain ⟨t, e, a, p, b, r, m, n⟩ := lines_sends (fun i => fixedLine i v .normal s.par.borderDefault)
    (fun i => setWork fun w => { w with lineCtr := i })
    (fun x u => ⟨sends_setWork _ u, rfl, rfl, rfl, rfl, rfl⟩) s (passLines s.par.passOrder s.lines) s (.refl s)
    (by rw [hl]; exact h)
  simp only [h0] at p b
  exact ⟨t, e, a.cast rfl (List.flatMap_eq_nil_iff.mpr fun _ _ => rfl) (by rw [hl]) (by rw [hl]), p, b, r, m, n⟩

/-- The visits of a sweep whose waits end (R197). -/
theorem visits_sends (real : Nat → LineArgs) (border : Byte) (rep total : Nat) (spots : List Spot) (s : State)
    (h : Responsive s (spots.length * s.lineWaits)) :
    ∃ t, forEach (visitOp real border rep total) spots s = .on t
      ∧ Sends s t (spots.flatMap fun q => lineTr s ((q.visit rep total).lineArgs real border))
          (spots.flatMap fun q => lineReads s ((q.visit rep total).lineArgs real border))
          (spots.length * s.lineWaits) (spots.length * s.lineXfers)
      ∧ t.pins = (if spots = [] then s.pins else { s.pins with cs := true })
      ∧ t.busEn = (if spots = [] then s.busEn else false) ∧ t.rxcap = s.rxcap := by
  obtain ⟨t, e, a, p, b, r, -⟩ := lines_sends (fun q : Spot => (q.visit rep total).lineArgs real border)
    (fun q => setWork fun w => { w with pass := q.n, blockStart := q.line, off := q.off, spot := q.pos })
    (fun x u => ⟨sends_setWork _ u, rfl, rfl, rfl, rfl, rfl⟩) s spots s (.refl s) h
  exact ⟨t, e, a, p, b, r⟩

/-! ## Acceptance, and the sweep as a whole -/

/-- Acceptance writes `RUN` and the working registers only (R83). -/
theorem accept_untouched (s : State) : Untouched s (accept s) := ⟨rfl, rfl, rfl, rfl, rfl, rfl, rfl, rfl⟩

/-- What an activity from the accepted state leaves, once the operation returns (R83), seen from before the command. -/
theorem Sends.ofAccept {s t : State} {o : List Event} {m : List Nat} {w r : Nat} (h : Sends (accept s) t o m w r)
    (hc : t.rxcap = s.rxcap) : Drawn s (ret t) ∧ Returned s (ret t) ∧ Traced s (ret t) o := by
  obtain ⟨e, h1, h2, -⟩ := h.events
  exact ⟨⟨⟨h.par, h.sizeSel, h.size, h.args, h.mem, h.env, h.hostQ, h.hostRd⟩, h.st, h.toff, h.psm, hc, h.reset,
    h.panelOn, h.discharge, h.border⟩, ⟨rfl, rfl, congrArg (· + 1) h.returns⟩, e, h1, h2⟩

/-- A sweep ends exactly when its step is not 0, there is no pass, or the first block starts past the last line (R197,
R203, R263). -/
theorem SweepParams.endless_eq_false {q : SweepParams} {total : Nat} :
    q.endless total = false ↔ 1 ≤ q.step ∨ q.rep = 0 ∨ total + q.block = 0 := by
  rw [← Bool.not_eq_true]
  simp only [SweepParams.endless, Bool.and_eq_true, decide_eq_true_eq, beq_iff_eq]
  omega

/-- A sweep whose step is 0 and that ends makes no visit (R203). -/
theorem SweepParams.spots_of_zeroStep {q : SweepParams} {total : Nat} (he : q.endless total = false)
    (h : q.step = 0) : q.spots total = [] := by
  obtain h1 | h1 | h1 := SweepParams.endless_eq_false.mp he
  · omega
  · rw [SweepParams.spots, h1]
    rfl
  · rw [SweepParams.spots, h1]
    exact List.flatMap_eq_nil_iff.mpr fun _ _ => rfl

/-- A sweep that ends is its visits in order (R197). -/
theorem sweepOp_of_ends {q : SweepParams} {s : State} (h : q.endless s.lines = false) (real : Nat → LineArgs) :
    sweepOp q real s = forEach (visitOp real s.par.borderDefault q.rep s.lines) (q.spots s.lines) s := by
  rw [sweepOp, h]
  by_cases h0 : q.step = 0
  · rw [if_neg Bool.false_ne_true, if_pos h0, SweepParams.spots_of_zeroStep h h0]
    rfl
  · rw [if_neg Bool.false_ne_true, if_neg h0]

/-- A sweep that ends, when its waits end (R197). -/
theorem sweepOp_sends {q : SweepParams} {s : State} (hq : q.endless s.lines = false) (real : Nat → LineArgs)
    (h : Responsive s ((q.visits s.lines).length * s.lineWaits)) :
    ∃ t reads, sweepOp q real s = .on t
      ∧ Sends s t (sweepTr s q real) reads ((q.visits s.lines).length * s.lineWaits)
          ((q.visits s.lines).length * s.lineXfers)
      ∧ t.pins.cs = (if (q.visits s.lines).length = 0 then s.pins.cs else true)
      ∧ t.busEn = (if (q.visits s.lines).length = 0 then s.busEn else false) ∧ t.rxcap = s.rxcap := by
  have hl : (q.spots s.lines).length = (q.visits s.lines).length := by simp [SweepParams.visits]
  have h0 : q.spots s.lines = [] ↔ (q.visits s.lines).length = 0 := by rw [← hl, List.length_eq_zero_iff]
  rw [← hl] at h
  obtain ⟨t, e, a, p, b, r⟩ := visits_sends real s.par.borderDefault q.rep s.lines (q.spots s.lines) s h
  rw [hl] at a
  simp only [h0] at p b
  refine ⟨t, _, (sweepOp_of_ends hq real).trans e, a.cast ?_ rfl rfl rfl, ?_, b, r⟩
  · simp only [sweepTr, SweepParams.visits, List.flatMap_map]
  · rw [p]
    split <;> rfl

end Sys2Proof.Machine
end

