-- ==== Sys2Proof/Laws/Memory.lean ====
section
/-! SUPPORT. The frame buffer: the host's store keeps the canonical form, and a read gives what was stored last. -/

namespace Sys2Proof.Machine

/-- Every address of a stored buffer is the one stored or one it had. -/
theorem Memory.mem_store {c : Host.Cell} {m : Memory} {a : Nat} {v : Byte} (h : c ∈ m.store a v) :
    c = (a, v) ∨ c ∈ m := by
  induction m with
  | nil => simpa [Memory.store] using h
  | cons d rest ih =>
    obtain ⟨b, w⟩ := d
    simp only [Memory.store] at h
    split at h
    · simpa using h
    · split at h
      · simp only [List.mem_cons] at h ⊢
        tauto
      · simp only [List.mem_cons] at h ⊢
        rcases h with h | h
        · tauto
        · rcases ih h with h | h <;> tauto

/-- The host's store keeps the canonical form. -/
theorem Memory.store_wf {m : Memory} (a : Nat) (v : Byte) (h : m.wf) : (m.store a v).wf := by
  induction m with
  | nil => simp [Memory.store, Memory.wf]
  | cons d rest ih =>
    obtain ⟨b, w⟩ := d
    obtain ⟨hb, hr⟩ := List.pairwise_cons.mp h
    simp only [Memory.store]
    split
    · rename_i hlt
      refine List.pairwise_cons.mpr ⟨fun c hc => ?_, h⟩
      rcases List.mem_cons.mp hc with rfl | hc
      · exact hlt
      · exact Nat.lt_trans hlt (hb c hc)
    · split
      · rename_i heq
        subst heq
        exact List.pairwise_cons.mpr ⟨hb, hr⟩
      · refine List.pairwise_cons.mpr ⟨fun c hc => ?_, ih hr⟩
        rcases Memory.mem_store hc with rfl | hc
        · show b < a
          omega
        · exact hb c hc

/-- What is stored at an address that every listed one exceeds: nothing. -/
theorem Memory.stored_of_lt {m : Memory} {a : Nat} (h : ∀ c ∈ m, a < c.1) : m.stored a = none := by
  induction m with
  | nil => rfl
  | cons d rest ih =>
    obtain ⟨b, w⟩ := d
    have hb : a < b := h (b, w) (by simp)
    simp only [Memory.stored]
    rw [if_neg (by omega)]
    exact ih fun c hc => h c (by simp [hc])

/-- A read of the address just stored. -/
theorem Memory.stored_store_same (m : Memory) (a : Nat) (v : Byte) : (m.store a v).stored a = some v := by
  induction m with
  | nil => simp [Memory.store, Memory.stored]
  | cons d rest ih =>
    obtain ⟨b, w⟩ := d
    simp only [Memory.store]
    split
    · simp [Memory.stored]
    · split
      · simp [Memory.stored]
      · have hb : b ≠ a := by omega
        simp [Memory.stored, hb, ih]

/-- A read of any other address. -/
theorem Memory.stored_store_other (m : Memory) {a b : Nat} (v : Byte) (h : b ≠ a) :
    (m.store a v).stored b = m.stored b := by
  induction m with
  | nil => simp [Memory.store, Memory.stored, h.symm]
  | cons d rest ih =>
    obtain ⟨c, w⟩ := d
    simp only [Memory.store]
    split
    · simp [Memory.stored, h.symm]
    · split
      · rename_i heq
        subst heq
        simp [Memory.stored, h.symm]
      · simp [Memory.stored, ih]

/-- The frame buffer at reset is canonical. -/
theorem reset_mem_wf : State.reset.mem.wf := List.Pairwise.nil

end Sys2Proof.Machine
end

