-- ==== Sys2Proof/Laws/PerInstr.lean ====
section
/-! SUPPORT. The family `EncodingForm`: the shape of every instruction's encoding, one lemma per constructor. -/

namespace Sys2Proof.Laws.EncodingForm

/-- A command is one of the words 1 to 7 (R82); a frame has one of the four command bytes first and at least one byte
after it (R86 to R90). -/
def Statement (i : Instr) : Prop :=
  match encode i with
  | .cmd w => 1 ≤ w.toNat ∧ w.toNat ≤ 7
  | .frame bytes => 2 ≤ bytes.length ∧ ∃ k ∈ [0x70#8, 0x71#8, 0x72#8, 0x73#8], bytes.head? = some k

theorem beginCmd : Statement .beginCmd := by simp [Statement, encode]

theorem endCmd : Statement .endCmd := by simp [Statement, encode]

theorem setFactor : Statement .setFactor := by simp [Statement, encode]

theorem frameFixed13 : Statement .frameFixed13 := by simp [Statement, encode]

theorem frameData13 : Statement .frameData13 := by simp [Statement, encode]

theorem frameStage2 : Statement .frameStage2 := by simp [Statement, encode]

theorem line : Statement .line := by simp [Statement, encode]

theorem wireSelect (a : Byte) : Statement (.wireSelect a) := by simp [Statement, encode, Config.cmdSelect]

theorem wireWrite (d : Byte) (more : List Byte) : Statement (.wireWrite d more) := by
  simp [Statement, encode, Config.cmdWrite]

theorem wireLineData (b : Byte) (odd scan even : List Byte) : Statement (.wireLineData b odd scan even) := by
  simp [Statement, encode, Config.cmdWrite]

theorem wireIdRead (i : Byte) : Statement (.wireIdRead i) := by simp [Statement, encode, Config.cmdReadReq]

theorem wireRegRead (f : Byte) : Statement (.wireRegRead f) := by simp [Statement, encode, Config.cmdReadRsp]

end Sys2Proof.Laws.EncodingForm
end

