-- ==== Sys2Proof/Laws/Power.lean ====
section
/-! SUPPORT. The parts of BEGIN, END and the fault path that are used more than once: the discharge pulses, a
verification, and one charge-pump attempt. -/

namespace Sys2Proof.Machine

/-- What discharge pulses leave as it was. -/
structure Pulsed (s t : State) : Prop extends Untouched s t where
  st : t.st = s.st
  toff : t.toff = s.toff
  psm : t.psm = s.psm
  rxcap : t.rxcap = s.rxcap
  busEn : t.busEn = s.busEn
  waitSeen : t.waitSeen = s.waitSeen
  rxSeen : t.rxSeen = s.rxSeen
  clockSeen : t.clockSeen = s.clockSeen
  sel : t.sel = s.sel
  returns : t.returns = s.returns

theorem Pulsed.refl (s : State) : Pulsed s s := ⟨.refl s, rfl, rfl, rfl, rfl, rfl, rfl, rfl, rfl, rfl, rfl⟩

theorem Pulsed.trans {s t u : State} (a : Pulsed s t) (b : Pulsed t u) : Pulsed s u :=
  ⟨a.toUntouched.trans b.toUntouched, b.st.trans a.st, b.toff.trans a.toff, b.psm.trans a.psm, b.rxcap.trans a.rxcap,
    b.busEn.trans a.busEn, b.waitSeen.trans a.waitSeen, b.rxSeen.trans a.rxSeen, b.clockSeen.trans a.clockSeen, b.sel.trans a.sel,
    b.returns.trans a.returns⟩

theorem dischargePulse_pulsed (k : Nat) (s : State) : Pulsed s (dischargePulse k s) := by
  refine ⟨⟨?_, ?_, ?_, ?_, ?_, ?_, ?_, ?_⟩, ?_, ?_, ?_, ?_, ?_, ?_, ?_, ?_, ?_, ?_⟩ <;> simp [dischargePulse]

/-- The events of one discharge pulse (R160). -/
theorem dischargePulse_trace (k : Nat) (s : State) :
    (dischargePulse k s).trace = s.trace ++ [.pin .discharge true, .delayMs 10, .pin .discharge false, .delayMs 10] := by
  simp [dischargePulse]

/-- The pins after one discharge pulse (R160). -/
theorem dischargePulse_pins (k : Nat) (s : State) :
    (dischargePulse k s).pins = { s.pins with discharge := false } := by
  simp [dischargePulse, Pins.set]

/-- The discharge pulses (R160): their events, the discharge pin low after them, and everything else as it was. -/
theorem dischargePulses_does (ks : List Nat) (s t : State) (h : ks.foldl (fun s k => dischargePulse k s) s = t) :
    Pulsed s t ∧ t.pins = (if ks = [] then s.pins else { s.pins with discharge := false })
      ∧ Traced s t (List.replicate ks.length
          [.pin .discharge true, .delayMs 10, .pin .discharge false, .delayMs 10]).flatten := by
  induction ks generalizing s with
  | nil =>
    obtain rfl : s = t := h
    exact ⟨.refl s, by simp, [], by simp, rfl⟩
  | cons k rest ih =>
    rw [List.foldl_cons] at h
    obtain ⟨u, hp, evs, he, ho⟩ := ih (dischargePulse k s) h
    refine ⟨(dischargePulse_pulsed k s).trans u, ?_,
      [.pin .discharge true, .delayMs 10, .pin .discharge false, .delayMs 10] ++ evs, ?_, ?_⟩
    · rw [hp, dischargePulse_pins]
      simp
    · rw [he, dischargePulse_trace, List.append_assoc]
    · rw [outline_append, ho]
      rfl

/-- The pins and the bus before the pulses of `power_off`: every pin but DISCHARGE is low (R160). -/
def pulledDown (s : State) : State :=
  pinWrite .cs false (busDisable (pinWrite .border false (pinWrite .panelOn false (pinWrite .reset false s))))

/-- `power_off` is that and then the ten pulses (R160). -/
theorem powerOff_pulses (s : State) :
    ∃ t, powerOff s = setPsm .poweredDown t ∧ Pulsed (pulledDown s) t
      ∧ t.pins = { (pulledDown s).pins with discharge := false }
      ∧ Traced (pulledDown s) t
          (List.replicate 10 [.pin .discharge true, .delayMs 10, .pin .discharge false, .delayMs 10]).flatten := by
  obtain ⟨h, hp, ht⟩ := dischargePulses_does (List.range Config.dischargePulses) (pulledDown s) _ rfl
  rw [List.length_range, show Config.dischargePulses = 10 from rfl] at ht
  rw [if_neg (by simp [Config.dischargePulses])] at hp
  exact ⟨_, rfl, h, hp, ht⟩

/-- A verification that passes changes nothing. -/
theorem verify_on {passes : State → Bool} {s : State} (c : Status) (h : passes s = true) : verify passes c s = .on s := by
  simp [verify, h]

/-- A verification that fails takes the fault path (R236). -/
theorem verify_off {passes : State → Bool} {s : State} (c : Status) (h : passes s = false) :
    verify passes c s = raise c s := by
  simp [verify, h]

/-- One charge-pump attempt whose waits end (R151): its events; the flag is the test of the answer to its last byte. -/
theorem pumpAttempt_sends (i : Nat) (s : State) (h : Responsive s 16) :
    ∃ t, pumpAttempt i s = .on t ∧ Sends s t (attemptTr s) [] 16 16 ∧ t.pins = { s.pins with cs := true }
      ∧ t.busEn = s.busEn ∧ t.rxcap[2] = s.rxcap[2] ∧ t.rxcap[3] = s.rxcap[3]
      ∧ t.work.dcOk = dcdcReady s.par.dcdcMask (s.answer 15) := by
  have c0 := sends_setWork (fun w => { w with attempt := i }) s
  obtain ⟨t1, e1, a1, p1, b1, -, r1, -⟩ := regWrite_sends Config.aCp RegData.cpPos
    (setWork (fun w => { w with attempt := i }) s) (Responsive.after (n := 4) (h.mono (by omega)) c0)
  have c1 := (c0.trans a1).trans (sends_emit (.delayMs 240) t1)
  obtain ⟨t2, e2, a2, p2, b2, -, r2, -⟩ := regWrite_sends Config.aCp RegData.cpNeg (delayMs 240 t1)
    (Responsive.after (n := 4) (h.mono (by omega)) c1)
  have c2 := (c1.trans a2).trans (sends_emit (.delayMs 40) t2)
  obtain ⟨t3, e3, a3, p3, b3, -, r3, -⟩ := regWrite_sends Config.aCp RegData.cpVcom (delayMs 40 t2)
    (Responsive.after (n := 4) (h.mono (by omega)) c2)
  have c3 := (c2.trans a3).trans (sends_emit (.delayMs 40) t3)
  obtain ⟨t4, e4, a4, p4, b4, -, r4, l4, -⟩ := regRead_sends Config.aStat (delayMs 40 t3)
    (Responsive.after (n := 4) (h.mono (by omega)) c3)
  have c4 := c3.trans a4
  have hans : (delayMs 40 t3).answer 3 = s.answer 15 := by
    rw [State.answer, State.answer]
    exact congrArg₂ Env.rxAt c3.env (by rw [show (delayMs 40 t3).rxSeen = _ from c3.xfers])
  have caps : t4.rxcap[2] = s.rxcap[2] ∧ t4.rxcap[3] = s.rxcap[3] := by
    have : (delayMs 40 t3).rxcap = s.rxcap := by
      rw [delayMs_rxcap, r3, delayMs_rxcap, r2, delayMs_rxcap, r1, setWork_rxcap]
    rw [this] at r4
    simp [r4]
  have hpar : t4.par = s.par := c4.par
  refine ⟨setWork (fun w => { w with dcOk := dcdcReady t4.par.dcdcMask w.last }) t4, ?_,
    (c4.trans (sends_setWork _ t4)).cast ?_ rfl rfl rfl, ?_, ?_, caps.1, caps.2, ?_⟩
  · simp only [pumpAttempt, inOrder_cons, inOrder_nil, act_apply, Flow.andThen_on, e1, e2, e3, e4]
  · rw [show (delayMs 40 t3).par = s.par from c3.par, show (delayMs 40 t2).par = s.par from c2.par,
      show (delayMs 240 t1).par = s.par from c1.par]
    simp [attemptTr, outline, Event.outlined, Config.aCp, Config.aStat]
  · rw [setWork_pins, p4, delayMs_pins, p3, delayMs_pins, p2, delayMs_pins, p1, setWork_pins]
  · rw [setWork_busEn, b4, delayMs_busEn, b3, delayMs_busEn, b2, delayMs_busEn, b1, setWork_busEn]
  · show dcdcReady t4.par.dcdcMask t4.work.last = _
    rw [l4, hans, hpar]

end Sys2Proof.Machine
end

