-- ==== Sys2Proof/Laws/Timed.lean ====
section
/-! SUPPORT. What the timed halves of FRAME_STAGE2 do when their waits end (R191, R195): a half reaches its minimum
within the step, or the step ends between two of its passes (log entry 4); and whose turn a step is while an operation
runs. -/

namespace Sys2Proof.Machine

/-! ## The measured time -/

/-- The time of `m + n` passes is that of the first `m` and of the `n` after them. -/
theorem measured_add (s : State) (c m n : Nat) : measured s c (m + n) = measured s c m + measured s (c + 2 * m) n := by
  induction n with
  | zero => rfl
  | succ n ih =>
    rw [← Nat.add_assoc, measured, ih, measured, Nat.mul_add, ← Nat.add_assoc c, Nat.add_assoc]

theorem measured_mono (s : State) (c : Nat) {m n : Nat} (h : m ≤ n) : measured s c m ≤ measured s c n := by
  obtain ⟨k, rfl⟩ := Nat.exists_eq_add_of_le h
  rw [measured_add]
  exact Nat.le_add_right _ _

theorem Untouched.measured {s t : State} (h : Untouched s t) (c n : Nat) : measured t c n = measured s c n := by
  induction n with
  | zero => rfl
  | succ n ih => rw [Machine.measured, Machine.measured, ih, h.par, h.env]

theorem Untouched.stepPasses {s t : State} (h : Untouched s t) (c : Nat) : stepPasses t c = stepPasses s c := by
  rw [Machine.stepPasses, Machine.stepPasses, h.env]

theorem Untouched.passPlan {s t : State} (h : Untouched s t) {acc : Nat} {hs : List (Byte × Nat)} {c : Nat}
    {ns : List Nat} (p : PassPlan s acc hs c ns) : PassPlan t acc hs c ns := by
  induction hs generalizing acc c ns with
  | nil => cases ns <;> exact p
  | cons x rest ih =>
    cases ns with
    | nil => exact p
    | cons n ns =>
      obtain ⟨h1, h2, h3, h4, h5⟩ := p
      refine ⟨h1, by rw [h.stepPasses]; exact h2, by rw [h.measured]; exact h3, fun j hj hn => ?_, ih h5⟩
      rw [h.measured]
      exact h4 j hj hn

theorem Untouched.halvesTr {s t : State} (h : Untouched s t) (hs : List (Byte × Nat)) (ns : List Nat) :
    halvesTr t hs ns = halvesTr s hs ns := by
  induction hs generalizing ns with
  | nil => rfl
  | cons x rest ih =>
    cases ns with
    | nil => rfl
    | cons n ns => rw [Machine.halvesTr, Machine.halvesTr, h.passTr, ih]

theorem stepPasses_clockSeen (s : State) : stepPasses s s.clockSeen = passFuel s := rfl

/-! ## Passes between clock reads -/

/-- From `s` to `t` the timed loop has made `n` passes with outline `o`: the counts that go with them, CS and the bus
as a LINE leaves them, and the frame. -/
structure Passed (s t : State) (o : List Event) (n : Nat) : Prop extends Drawn s t where
  run : t.run = s.run
  pos : t.pos = s.pos
  returns : t.returns = s.returns
  clocks : t.clockSeen = s.clockSeen + 2 * n
  waits : t.waitSeen = s.waitSeen + n * (s.lines * s.lineWaits)
  xfers : t.rxSeen = s.rxSeen + n * (s.lines * s.lineXfers)
  cs : t.pins.cs = if n * s.lines = 0 then s.pins.cs else true
  busEn : t.busEn = if n * s.lines = 0 then s.busEn else false
  traced : Traced s t o

theorem Drawn.trans {s t u : State} (a : Drawn s t) (b : Drawn t u) : Drawn s u :=
  ⟨a.toUntouched.trans b.toUntouched, b.st.trans a.st, b.toff.trans a.toff, b.psm.trans a.psm, b.rxcap.trans a.rxcap,
    b.reset.trans a.reset, b.panelOn.trans a.panelOn, b.discharge.trans a.discharge, b.border.trans a.border⟩

theorem Traced.trans {s t u : State} {o o' : List Event} (a : Traced s t o) (b : Traced t u o') :
    Traced s u (o ++ o') := by
  obtain ⟨e, he, ho⟩ := a
  obtain ⟨e', he', ho'⟩ := b
  exact ⟨e ++ e', by rw [he', he, List.append_assoc], by rw [outline_append, ho, ho']⟩

theorem Passed.trans {s t u : State} {o o' : List Event} {m n : Nat} (a : Passed s t o m) (b : Passed t u o' n) :
    Passed s u (o ++ o') (m + n) := by
  have hl := a.toUntouched.lines
  refine ⟨a.toDrawn.trans b.toDrawn, b.run.trans a.run, b.pos.trans a.pos, b.returns.trans a.returns, ?_, ?_, ?_, ?_,
    ?_, a.traced.trans b.traced⟩
  · rw [b.clocks, a.clocks, Nat.mul_add, Nat.add_assoc]
  · rw [b.waits, a.waits, hl, a.toUntouched.lineWaits, Nat.add_mul, Nat.add_assoc]
  · rw [b.xfers, a.xfers, hl, a.toUntouched.lineXfers, Nat.add_mul, Nat.add_assoc]
  · rw [b.cs, a.cs, hl, Nat.add_mul]
    by_cases hm : m * s.lines = 0 <;> by_cases hn : n * s.lines = 0 <;> simp [hm, hn]
  · rw [b.busEn, a.busEn, hl, Nat.add_mul]
    by_cases hm : m * s.lines = 0 <;> by_cases hn : n * s.lines = 0 <;> simp [hm, hn]

theorem Passed.refl (s : State) : Passed s s [] 0 :=
  ⟨(Drew.refl s).drawn, rfl, rfl, rfl, rfl, by simp, by simp, by simp, by simp, [], by simp⟩

/-- The waits that some passes leave are still to come. -/
theorem Responsive.afterPasses {s t : State} {o : List Event} {m n : Nat}
    (h : Responsive s ((m + n) * (s.lines * s.lineWaits))) (a : Passed s t o m) :
    Responsive t (n * (t.lines * t.lineWaits)) := by
  rw [a.toUntouched.lines, a.toUntouched.lineWaits]
  intro k hk
  rw [a.env, a.waits, Nat.add_assoc]
  exact h _ (by rw [Nat.add_mul]; omega)

/-- A change of the working registers is no pass. -/
theorem passed_setWork (f : Work → Work) (s : State) : Passed s (setWork f s) [] 0 :=
  ⟨⟨⟨rfl, rfl, rfl, rfl, rfl, rfl, rfl, rfl⟩, rfl, rfl, rfl, rfl, rfl, rfl, rfl, rfl⟩, rfl, rfl, rfl, rfl, by simp,
    by simp, by simp, by simp, [], by simp, rfl⟩

/-- One round of the timed loop: the clock, one pass, the clock, and its time is added (R191, R192). -/
theorem timedPass_passed (v : Byte) (s : State) (h : Responsive s (1 * (s.lines * s.lineWaits))) :
    ∃ t, timedPass v s = .on t ∧ Passed s t (.clock 0 :: (passTr s v ++ [.clock 0])) 1
      ∧ t.work.acc = s.work.acc + measured s s.clockSeen 1 := by
  rw [Nat.one_mul] at h
  obtain ⟨t, e1, a, p, b, r, m, n⟩ := framePass_sends v (nowMs (fun t w => { w with t0 := t }) s) h
  obtain ⟨e, g1, g2, -⟩ := a.events
  have hp : t.par = s.par := a.par
  have he : t.env = s.env := a.env
  have hc : t.clockSeen = s.clockSeen + 1 := a.clockSeen
  refine ⟨addElapsed (nowMs (fun t w => { w with t1 := t }) t), ?_, ?_, ?_⟩
  · simp only [timedPass, inOrder_cons, inOrder_nil, act_apply, Flow.andThen_on, e1]
  · refine ⟨⟨⟨a.par, a.sizeSel, a.size, a.args, a.mem, a.env, a.hostQ, a.hostRd⟩, a.st, a.toff, a.psm, r, a.reset,
      a.panelOn, a.discharge, a.border⟩, a.run, a.pos, a.returns, ?_, ?_, ?_, ?_, ?_,
      .clock (nowSample s) :: (e ++ [.clock (nowSample t)]), ?_, ?_⟩
    · show t.clockSeen + 1 = _
      rw [hc]
    · rw [Nat.one_mul]
      exact a.waits
    · rw [Nat.one_mul]
      exact a.xfers
    · show t.pins.cs = _
      rw [p, Nat.one_mul]
      show Pins.cs (if s.lines = 0 then s.pins else _) = _
      split <;> rfl
    · rw [Nat.one_mul]
      exact b
    · show t.trace ++ [Event.clock (nowSample t)] = _
      rw [g1]
      simp
    · show outline ([Event.clock _] ++ (e ++ [Event.clock _])) = _
      rw [outline_append, outline_append, g2]
      rfl
  · have hm : t.work.acc = s.work.acc := m
    have hn : t.work.t0 = nowSample s := n
    simp [addElapsed, measured, nowSample, hm, hn, hp, he, hc]

theorem timedLoop_succ (here : Pos) (v : Byte) (minMs fuel : Nat) (s : State) :
    timedLoop here v minMs (fuel + 1) s
      = (timedPass v s).andThen fun t => if timeReached t.work.acc minMs then .on t else timedLoop here v minMs fuel t :=
  rfl

/-- A timed loop that reaches its minimum with the passes the step may make (R191). -/
theorem timedLoop_reaches (here : Pos) (v : Byte) (minMs : Nat) (n fuel : Nat) (s : State) (h1 : 1 ≤ n) (hf : n ≤ fuel)
    (hr : minMs ≤ s.work.acc + measured s s.clockSeen n)
    (hl : ∀ j, 1 ≤ j → j < n → s.work.acc + measured s s.clockSeen j < minMs)
    (h : Responsive s (n * (s.lines * s.lineWaits))) :
    ∃ t, timedLoop here v minMs fuel s = .on t
      ∧ Passed s t (List.replicate n (.clock 0 :: (passTr s v ++ [.clock 0]))).flatten n := by
  induction n generalizing fuel s with
  | zero => omega
  | succ n ih =>
    obtain ⟨fuel, rfl⟩ := Nat.exists_eq_succ_of_ne_zero (n := fuel) (by omega)
    rw [Nat.add_comm] at h
    obtain ⟨t, e, a, m⟩ := timedPass_passed v s (h.mono (Nat.mul_le_mul_right _ (by omega)))
    have after : ∀ k, t.work.acc + measured t t.clockSeen k = s.work.acc + measured s s.clockSeen (k + 1) := fun k => by
      rw [m, a.toUntouched.measured, a.clocks, Nat.add_comm k 1, measured_add, Nat.add_assoc]
    rw [timedLoop_succ, e, Flow.andThen_on]
    by_cases h0 : n = 0
    · subst h0
      refine ⟨t, ?_, by simpa using a⟩
      rw [if_pos]
      rw [timeReached, m]
      exact decide_eq_true hr
    · have hn : ¬ timeReached t.work.acc minMs = true := by
        rw [timeReached, m, decide_eq_true_eq, Nat.not_le]
        exact hl 1 (by omega) (by omega)
      rw [if_neg hn]
      obtain ⟨u, e', a'⟩ := ih fuel t (by omega) (by omega) (by rw [after]; exact hr)
        (fun j hj hjn => by rw [after]; exact hl (j + 1) (by omega) (by omega)) (h.afterPasses a)
      refine ⟨u, e', ?_⟩
      have c := a.trans a'
      rw [a.toUntouched.passTr, Nat.add_comm 1 n] at c
      simpa [List.replicate_succ] using c

/-- A timed loop that falls short of its minimum after all the passes the step may make: the step ends there (R193,
R262). -/
theorem timedLoop_stops (here : Pos) (v : Byte) (minMs : Nat) (fuel : Nat) (s : State)
    (hl : s.work.acc + measured s s.clockSeen fuel < minMs) (h : Responsive s (fuel * (s.lines * s.lineWaits))) :
    ∃ t, timedLoop here v minMs fuel s = .off { t with run := true, pos := here }
      ∧ Passed s t (List.replicate fuel (.clock 0 :: (passTr s v ++ [.clock 0]))).flatten fuel
      ∧ t.work.acc = s.work.acc + measured s s.clockSeen fuel := by
  induction fuel generalizing s with
  | zero => exact ⟨s, rfl, Passed.refl s, rfl⟩
  | succ n ih =>
    rw [Nat.add_comm] at h
    obtain ⟨t, e, a, m⟩ := timedPass_passed v s (h.mono (Nat.mul_le_mul_right _ (by omega)))
    have after : t.work.acc + measured t t.clockSeen n = s.work.acc + measured s s.clockSeen (n + 1) := by
      rw [m, a.toUntouched.measured, a.clocks, Nat.add_comm n 1, measured_add, Nat.add_assoc]
    have hn : ¬ timeReached t.work.acc minMs = true := by
      rw [timeReached, m, decide_eq_true_eq, Nat.not_le]
      exact Nat.lt_of_le_of_lt (Nat.add_le_add_left (measured_mono s s.clockSeen (by omega)) _) hl
    obtain ⟨u, e', a', m'⟩ := ih t (by rw [after]; exact hl) (h.afterPasses a)
    refine ⟨u, by rw [timedLoop_succ, e, Flow.andThen_on, if_neg hn, e'], ?_, by rw [m', after]⟩
    have c := a.trans a'
    rw [a.toUntouched.passTr, Nat.add_comm 1 n] at c
    simpa [List.replicate_succ] using c

/-! ## The halves -/

/-- FRAME_STAGE2 begins as a resumed step does from a cleared accumulator. -/
theorem timedHalves_eq_resume (hs : List (Byte × Nat)) (h : hs ≠ []) (s : State) :
    timedHalves hs s = resumeTimed hs (clearAcc s) := by
  cases hs with
  | nil => exact absurd rfl h
  | cons x rest => rfl

/-- Halves that all reach their minimum within the step (R191, R195). -/
theorem resumeTimed_passes (hs : List (Byte × Nat)) (ns : List Nat) (s : State)
    (hp : PassPlan s s.work.acc hs s.clockSeen ns) (h : Responsive s (ns.sum * (s.lines * s.lineWaits))) :
    ∃ t, resumeTimed hs s = .on t ∧ Passed s t (halvesTr s hs ns) ns.sum := by
  induction hs generalizing ns s with
  | nil =>
    cases ns with
    | nil => exact ⟨s, rfl, Passed.refl s⟩
    | cons n ns => exact hp.elim
  | cons x rest ih =>
    obtain ⟨v, minMs⟩ := x
    cases ns with
    | nil => exact hp.elim
    | cons n ns =>
      obtain ⟨h1, h2, h3, h4, h5⟩ := hp
      rw [List.sum_cons] at h
      obtain ⟨t, e, a⟩ := timedLoop_reaches (.timed ((v, minMs) :: rest)) v minMs n (passFuel s) s h1 h2 h3 h4
        (h.mono (Nat.mul_le_mul_right _ (by omega)))
      have b := a.trans (passed_setWork (fun w => { w with acc := 0 }) t)
      rw [Nat.add_zero, List.append_nil] at b
      obtain ⟨u, e', a'⟩ := ih ns (clearAcc t)
        (by rw [show (clearAcc t).clockSeen = s.clockSeen + 2 * n from a.clocks]; exact b.toUntouched.passPlan h5)
        (h.afterPasses b)
      have c := b.trans a'
      have hu : halvesTr (clearAcc t) rest ns = halvesTr s rest ns := b.toUntouched.halvesTr rest ns
      rw [hu] at c
      cases rest with
      | nil =>
        cases ns with
        | cons n ns => exact h5.elim
        | nil => exact ⟨t, by rw [resumeTimed, e]; rfl, by simpa [halvesTr] using a⟩
      | cons y rest =>
        exact ⟨u, by rw [resumeTimed, e, Flow.andThen_on, timedHalves_eq_resume _ (by simp)]; exact e', by
          simpa [halvesTr] using c⟩

/-- Halves of which some reach their minimum within the step and the next one does not: the step ends between two
passes of that one, and the halves from it on are still to run (R193, R195, R262). -/
theorem resumeTimed_stops (done : List (Byte × Nat)) (ns : List Nat) (v : Byte) (minMs : Nat)
    (rest : List (Byte × Nat)) (s : State) (hp : PassPlan s s.work.acc done s.clockSeen ns)
    (hl : (if done = [] then s.work.acc else 0)
      + measured s (s.clockSeen + 2 * ns.sum) (stepPasses s (s.clockSeen + 2 * ns.sum)) < minMs)
    (h : Responsive s ((ns.sum + stepPasses s (s.clockSeen + 2 * ns.sum)) * (s.lines * s.lineWaits))) :
    ∃ t, resumeTimed (done ++ (v, minMs) :: rest) s = .off { t with run := true, pos := .timed ((v, minMs) :: rest) }
      ∧ Passed s t (halvesTr s (done ++ [(v, minMs)]) (ns ++ [stepPasses s (s.clockSeen + 2 * ns.sum)]))
          (ns.sum + stepPasses s (s.clockSeen + 2 * ns.sum))
      ∧ t.work.acc = (if done = [] then s.work.acc else 0)
          + measured s (s.clockSeen + 2 * ns.sum) (stepPasses s (s.clockSeen + 2 * ns.sum)) := by
  induction done generalizing ns s with
  | nil =>
    cases ns with
    | cons n ns => exact hp.elim
    | nil =>
      simp only [if_true, List.sum_nil, Nat.mul_zero, Nat.add_zero, Nat.zero_add, stepPasses_clockSeen] at hl h ⊢
      obtain ⟨t, e, a, m⟩ := timedLoop_stops (.timed ((v, minMs) :: rest)) v minMs (passFuel s) s hl h
      exact ⟨t, by rw [List.nil_append, resumeTimed, e, Flow.andThen_off], by simpa [halvesTr] using a, m⟩
  | cons x done ih =>
    obtain ⟨v', min'⟩ := x
    cases ns with
    | nil => exact hp.elim
    | cons n ns =>
      obtain ⟨h1, h2, h3, h4, h5⟩ := hp
      simp only [reduceCtorEq, if_false, List.sum_cons, Nat.mul_add, ← Nat.add_assoc] at hl h ⊢
      rw [Nat.add_assoc n] at h ⊢
      obtain ⟨t, e, a⟩ := timedLoop_reaches (.timed ((v', min') :: (done ++ (v, minMs) :: rest))) v' min' n (passFuel s) s
        h1 h2 h3 h4 (h.mono (Nat.mul_le_mul_right _ (by omega)))
      have b := a.trans (passed_setWork (fun w => { w with acc := 0 }) t)
      rw [Nat.add_zero, List.append_nil] at b
      have hc : (clearAcc t).clockSeen = s.clockSeen + 2 * n := a.clocks
      have hz : ∀ d : List (Byte × Nat), (if d = [] then (clearAcc t).work.acc else 0) = 0 := fun d => by
        split <;> rfl
      have hu : Untouched s (clearAcc t) := b.toUntouched
      have := ih ns (clearAcc t) (by rw [hc]; exact hu.passPlan h5)
        (by rw [hz, hc, hu.stepPasses, hu.measured]; exact hl)
        (by rw [hc, hu.stepPasses]; exact h.afterPasses b)
      rw [hz, hc, hu.stepPasses, hu.measured, hu.halvesTr] at this
      obtain ⟨u, e', a', m'⟩ := this
      refine ⟨u, ?_, ?_, m'⟩
      · rw [List.cons_append, resumeTimed, e, Flow.andThen_on, timedHalves_eq_resume _ (by simp)]
        exact e'
      · simpa [halvesTr] using b.trans a'

/-! ## A step while an operation runs -/

/-- With nothing from the host, or the host waiting, a step while `RUN = 1` is the sequencer's (R28, R102). -/
theorem step_of_run {s : State} (hr : s.run = true) (hq : s.hostQ = [] ∨ ∃ q, s.hostQ = .wait :: q) :
    step s = Sequencer.goOn s := by
  obtain h | ⟨q, h⟩ := hq
  · simp only [step, h, Sequencer.turn, hr, if_true]
  · simp only [step, h, stepAct, hr, and_self, if_true, Sequencer.turn]

end Sys2Proof.Machine
end

