-- ==== Sys2Proof/Tests/Slice0.lean ====
section
/-! SUPPORT. Tests: each expected result is written out from spec/ (the vector or the rule is named), none from the
model. -/

namespace Sys2Proof.Tests

open Sys2Proof Sys2Proof.Machine

/-! ## Decoding: words written out from 30_encoding.md -/

/-- R82: `OP` in bits 3:0, the rest 0. -/
theorem test_decode_commands :
    [0x1, 0x2, 0x3, 0x4, 0x5, 0x6, 0x7].map (fun w : Nat => decodeTableWord 32 w)
      = [some .beginCmd, some .endCmd, some .setFactor, some .frameFixed13, some .frameData13, some .frameStage2,
          some .line] := by decide

/-- R84(a), V80 to V82: reserved words. -/
theorem test_decode_reserved_commands :
    [decodeCmd 0x00000000, decodeCmd 0x00000008, decodeCmd 0x0000000F, decodeCmd 0x00000011, decodeCmd 0x80000001,
        decodeCmd 0x00000103]
      = [.error (.reservedOpcode 0), .error (.reservedOpcode 8), .error (.reservedOpcode 15), .error .upperBits,
          .error .upperBits, .error .upperBits] := by decide

/-- R87 to R89: 0111 0000, 0111 0010, 0111 0001, 0111 0011, and the second byte. -/
theorem test_decode_frames :
    [decodeTableWord 16 0b0111000000001111, decodeTableWord 16 0b0111001001000000,
        decodeTableWord 16 0b0111000100000101, decodeTableWord 16 0b0111001100000110]
      = [some (.wireSelect 0x0F), some (.wireWrite 0x40 []), some (.wireIdRead 0x05), some (.wireRegRead 0x06)] := by
  decide

/-- R90, on a panel with 1 byte per line and 2 per scan: V36's data frame. -/
theorem test_decode_line_data :
    decode ⟨some 0x0A, 1, 2⟩ (.frame [0x72, 0x00, 0xEB, 0x0C, 0x01, 0xED])
      = .ok (.wireLineData 0x00 [0xEB] [0x0C, 0x01] [0xED]) := by decide

/-- R90: a whole 76-byte data frame of the 2.0 inch panel, as a table word. -/
theorem test_decode_line_data_word :
    decodeTableWord 608 (0x72 * 2 ^ 600 + 0xAB * 2 ^ 592 + 0x03)
      = some (.wireLineData 0xAB (List.replicate 25 0) (List.replicate 24 0) (List.replicate 24 0 ++ [0x03])) := by
  decide +kernel

/-- R94: the eight-byte payload of a channel select. -/
theorem test_decode_channel_select :
    decode ⟨some 0x00, 25, 24⟩ (.frame [0x72, 0x00, 0x00, 0x00, 0x00, 0x01, 0xFF, 0xE0, 0x00])
      = .ok (.wireWrite 0x00 [0x00, 0x00, 0x00, 0x01, 0xFF, 0xE0, 0x00]) := by decide

/-- R87 to R90, R98, R215: frames that are none. -/
theorem test_decode_rejects_frames :
    [decode ⟨none, 1, 2⟩ (.frame []), decode ⟨none, 1, 2⟩ (.frame [0x74, 0x00]), decode ⟨none, 1, 2⟩ (.frame [0x70]),
        decode ⟨none, 1, 2⟩ (.frame [0x71, 0x00, 0x00]), decode ⟨none, 1, 2⟩ (.frame [0x72, 0x00, 0x00]),
        decode ⟨some 0x0A, 1, 2⟩ (.frame [0x72, 0x00])]
      = [.error .emptyFrame, .error (.unknownCommand 0x74), .error (.frameLength 1), .error (.frameLength 3),
          .error (.frameLength 3), .error (.frameLength 2)] := by decide

/-- R82, R87 to R90: the encoder's words. -/
theorem test_encode :
    [encode .line, encode (.wireSelect 0x0A), encode (.wireLineData 0x00 [0xEB] [0x0C, 0x00] [0xED]),
        encode (.wireRegRead 0x06)]
      = [.cmd 0x00000007, .frame [0x70, 0x0A], .frame [0x72, 0x00, 0xEB, 0x0C, 0x00, 0xED], .frame [0x73, 0x06]] := by
  decide

/-! ## Well-formedness: one ill-formed term for each check -/

/-- A write of data to the register 0x0A is a line data frame. -/
theorem test_ill_formed_write_selected : (Instr.wireWrite 0x40 []).wellFormed ⟨some 0x0A, 1, 2⟩ = false := by decide

/-- A write has one byte of payload or eight. -/
theorem test_ill_formed_write_length : (Instr.wireWrite 0x40 [0x01]).wellFormed ⟨some 0x02, 1, 2⟩ = false := by decide

/-- Line data goes to the register 0x0A only. -/
theorem test_ill_formed_line_selected :
    (Instr.wireLineData 0 [0] [0, 0] [0]).wellFormed ⟨some 0x02, 1, 2⟩ = false
      ∧ (Instr.wireLineData 0 [0] [0, 0] [0]).wellFormed ⟨none, 1, 2⟩ = false := by decide

/-- Line data has `bpl` odd bytes, `bps` scan bytes and `bpl` even bytes. -/
theorem test_ill_formed_line_lengths :
    (Instr.wireLineData 0 [] [0, 0] [0]).wellFormed ⟨some 0x0A, 1, 2⟩ = false
      ∧ (Instr.wireLineData 0 [0] [0] [0]).wellFormed ⟨some 0x0A, 1, 2⟩ = false
      ∧ (Instr.wireLineData 0 [0] [0, 0] [0, 0]).wellFormed ⟨some 0x0A, 1, 2⟩ = false := by decide

/-! ## Small machines -/

/-- The synthetic panel T8 (95_test_vectors.md section 0). -/
def profileT8 : Profile where
  linesPerDisplay := 8
  dotsPerLine := 8
  bytesPerLine := 1
  bytesPerScan := 2
  channelSelect := [0x72, 0, 0, 0, 0, 0, 0, 0, 0xFF]

/-- The synthetic band TB (95_test_vectors.md section 0). -/
def bandTB : Band where
  stage1Repeat := 1
  stage1Step := 2
  stage1Block := 4
  stage2Repeat := 1
  stage2Time1 := 20
  stage2Time2 := 10
  stage3Repeat := 2
  stage3Step := 2
  stage3Block := 4

/-- T8 with a band in every slot, and a script for the environment. -/
def t8with (band : Band) (rx : List Byte) (waits : List (Option Nat)) (clock : List Nat) : State :=
  { State.reset with
    par := { Config.refParams with profile144 := profileT8, comp144 := { low := band, mid := band, high := band } }
    sizeSel := 0
    size := .s144
    env := { rx := rx, waits := waits, clock := clock } }

/-- T8 with TB. -/
def t8 : List Byte → List (Option Nat) → List Nat → State := t8with bandTB

/-- A panel smaller still, for the frame operations: 4 lines, 1 byte per line, 1 scan byte; one LINE's data frame is
5 bytes, one LINE is 15 transfers and 11 waits (R175). -/
def profileT4 : Profile := { profileT8 with linesPerDisplay := 4, bytesPerScan := 1 }

/-- Its band: sweeps (1, 4, 4), TB's stage 2. -/
def bandT4 : Band := { bandTB with stage1Step := 4, stage3Step := 4, stage3Repeat := 1 }

/-- The small panel with a script. -/
def t4 (rx : List Byte) (waits : List (Option Nat)) (clock : List Nat) : State :=
  { t8with bandT4 rx waits clock with
    par := { (t8with bandT4 [] [] []).par with profile144 := profileT4 } }

/-- `n` answers of 0x00 but for those listed by transfer. -/
def answers (n : Nat) (but : List (Nat × Byte)) : List Byte := (List.range n).map fun i => (but.lookup i).getD 0

/-- `n` waits that end at their first sample. -/
def quick (n : Nat) : List (Option Nat) := List.replicate n (some 0)

/-- The 2.0 inch machine of `State.reset` with a script. -/
def s200 (rx : List Byte) (waits : List (Option Nat)) : State :=
  { State.reset with env := { rx := rx, waits := waits, clock := [] } }

/-- The 2.7 inch machine, powered. -/
def s270 (rx : List Byte) (waits : List (Option Nat)) : State :=
  { s200 rx waits with sizeSel := 2, size := .s270, psm := .ready, pins := Pins.powered }

/-- The state an outcome gives, if it gives one. -/
def after : Host.Outcome State Fault Refusal → Option State
  | .next s => some s
  | _ => none

/-- A trace as 95_test_vectors.md writes it: the reads of the frame buffer are left out. -/
def port (t : List Event) : List Event :=
  t.filter fun e => match e with
    | .mem _ _ => false
    | _ => true

/-- The port events of the state an outcome gives. -/
def portsOf (o : Host.Outcome State Fault Refusal) : Option (List Event) := (after o).map fun s => port s.trace

/-- A chip-select frame with its answers, every BUSY sample 0. -/
def fr (bs : List (Byte × Byte)) : List Event :=
  .pin .cs false :: (bs.flatMap (fun b => [.xfer b.1 b.2, .busy false]) ++ [.pin .cs true])

/-- A chip-select frame answered 0x00 throughout. -/
def f0 (bs : List Byte) : List Event := fr (bs.map fun b => (b, 0))

/-- `EN`. -/
def en : List Event := [.bus true, .xfer 0 0, .xfer 0 0, .delayUs 10]

/-- `DIS`. -/
def dis : List Event := [.xfer 0 0, .xfer 0 0, .delayUs 10, .bus false]

/-- `POFF`. -/
def poff : List Event :=
  [.pin .reset false, .pin .panelOn false, .pin .border false] ++ dis ++ [.pin .cs false]
    ++ (List.replicate 10 [.pin .discharge true, .delayMs 10, .pin .discharge false, .delayMs 10]).flatten

/-- `[70 a] [72 d]`. -/
def wr (a d : Byte) : List Event := f0 [0x70, a] ++ f0 [0x72, d]

/-- The bytes of each chip-select frame of a trace. -/
def framesOf : List Event → List Byte → List (List Byte)
  | [], _ => []
  | .pin .cs false :: rest, _ => framesOf rest []
  | .pin .cs true :: rest, acc => acc.reverse :: framesOf rest []
  | .xfer b _ :: rest, acc => framesOf rest (b :: acc)
  | _ :: rest, acc => framesOf rest acc

/-- The data frames of the small panel: those of five bytes. -/
def dataFrames (o : Host.Outcome State Fault Refusal) : Option (List (List Byte)) :=
  (after o).map fun s => (framesOf s.trace []).filter fun f => f.length == 5

/-! ## SETFACTOR -/

/-- V10 to V18. -/
theorem test_setFactor_bands :
    ([0x00000009, 0x0000000A, 0x00000019, 0x00000028, 0x00000029, 0xFFFFFFFF, 0x7FFFFFFF, 0x80000000,
        0x00000000].map fun t : Word =>
      (after (exec .setFactor { State.reset with args := { Args.zero with temp := t } })).map fun s => s.toff)
      = [some 0, some 1, some 1, some 1, some 2, some 0, some 2, some 0, some 0] := by decide

/-- V14: no port event, `ST` and `RUN` as they were. -/
theorem test_setFactor_quiet :
    ((after (exec .setFactor { State.reset with st := .panelBroken, args := { Args.zero with temp := 41 } })).map
      fun s => (s.trace, s.st, s.run, s.psm)) = some ([], .panelBroken, false, .uninitialized) := by decide

/-! ## The encoders (V20, V22, V23) -/

/-- V20. -/
theorem test_encoder_table :
    ([0x00, 0xFF, 0x80, 0x01, 0x40, 0x02, 0x55, 0xAA, 0xC3, 0x5A, 0x96, 0x0F, 0xF0, 0x12].map fun x : Byte =>
        [odd x .normal, odd x .inverse, even x .normal, even x .inverse])
      = [[0xAA, 0xFF, 0xAA, 0xFF], [0xFF, 0xAA, 0xFF, 0xAA], [0xAA, 0xFF, 0xAB, 0xFE], [0xAB, 0xFE, 0xAA, 0xFF],
          [0xEA, 0xBF, 0xAA, 0xFF], [0xAA, 0xFF, 0xEA, 0xBF], [0xFF, 0xAA, 0xAA, 0xFF], [0xAA, 0xFF, 0xFF, 0xAA],
          [0xEB, 0xBE, 0xEB, 0xBE], [0xFA, 0xAF, 0xFA, 0xAF], [0xBE, 0xEB, 0xEB, 0xBE], [0xAF, 0xFA, 0xFA, 0xAF],
          [0xFA, 0xAF, 0xAF, 0xFA], [0xBA, 0xEF, 0xEA, 0xBF]] := by decide

/-- V22: (L, index, b, scan byte). -/
theorem test_scan_bytes :
    ([(96, 0, 23), (96, 1, 23), (96, 2, 23), (96, 3, 23), (96, 4, 22), (96, 5, 22), (96, 92, 0), (96, 95, 0),
        (176, 0, 43), (176, 175, 0), (8, 0, 1), (8, 5, 0)].map fun q : Nat × Nat × Nat => scanByte q.1 q.2.1 q.2.2)
      = [0x03, 0x0C, 0x30, 0xC0, 0x03, 0x0C, 0x03, 0xC0, 0x03, 0xC0, 0x03, 0x0C] := by decide

/-- V23: the floor, not the truncation. -/
theorem test_scan_floor :
    [scanPos 96 96, scanPos 96 97, scanPos 96 98, scanPos 96 99, scanPos 96 0x7FFF, scanPos 96 0xFFFF, scanPos 8 8]
      = [-1, -1, -1, -1, -8168, -16360, -1] := by decide

/-! ## LINE -/

/-- V36's machine, and V37's with another script. -/
def v36 (waits : List (Option Nat)) : State :=
  { t8 (answers 16 []) waits [] with
    args := { line := 5, pix := 0x00030000, temp := 0, fb := 0x1000 }
    mem := [(0x1000, 0xC3)] }

/-- V36: the whole trace. -/
theorem test_line_trace :
    portsOf (exec .line (v36 (quick 12)))
      = some (en ++ f0 [0x70, 0x0A] ++ f0 [0x72, 0x00, 0xEB, 0x0C, 0x00, 0xEB] ++ wr 0x02 0x07 ++ dis) := by
  decide +kernel

/-- V37: BUSY sampled 1, 1, 0 after the border byte. -/
theorem test_line_flow_control :
    portsOf (exec .line (v36 (quick 3 ++ some 2 :: quick 8)))
      = some (en ++ f0 [0x70, 0x0A]
          ++ [.pin .cs false, .xfer 0x72 0, .busy false, .xfer 0x00 0, .busy true, .busy true, .busy false,
              .xfer 0xEB 0, .busy false, .xfer 0x0C 0, .busy false, .xfer 0x00 0, .busy false, .xfer 0xEB 0,
              .busy false, .pin .cs true]
          ++ wr 0x02 0x07 ++ dis) := by
  decide +kernel

/-! ## FRAME_FIXED_13, FRAME_DATA_13, FRAME_STAGE2 -/

/-- A plan of 95_test_vectors.md section 2.8: -1 is `F`, `q` is `Vq`, `100 + q` is `Zq`. -/
def plan (rep step block total : Nat) : List Int :=
  ((SweepParams.mk rep step block).visits total).map fun v => match v with
    | .flush => -1
    | .settle q => 100 + q
    | .real q => q

/-- V60, V62, V63, V64, V65. -/
theorem test_visit_plans :
    plan 1 2 4 8 = [-1, -1, 0, 1, 100, 1, 2, 3, 102, 3, 4, 5, 104, 5, 6, 7, 106, 7, 8, -1, 108, -1, -1, -1]
      ∧ plan 1 3 2 8 = [101, 2, 104, 5, 107, 8, -1, -1]
      ∧ plan 2 1 1 4 = [0, 1, 2, 3, 4, 100, 101, 102, 103, 104]
      ∧ plan 1 1 1 4 = [100, 101, 102, 103, 104]
      ∧ plan 1 4 4 8 = [100, 1, 2, 3, 104, 5, 6, 7, 108, -1, -1, -1] := by decide +kernel

/-- V61, V66, V67, V68, V69a. -/
theorem test_visit_plans_more :
    plan 2 2 4 8 = [-1, -1, 0, 1, 0, 1, 2, 3, 2, 3, 4, 5, 4, 5, 6, 7, 6, 7, 8, -1, 8, -1, -1, -1] ++ plan 1 2 4 8
      ∧ plan 3 4 4 8
        = (List.replicate 2 [0, 1, 2, 3, 4, 5, 6, 7, 8, -1, -1, -1]).flatten ++ plan 1 4 4 8
      ∧ plan 0 2 4 8 = [] ∧ plan 1 2 0 8 = []
      ∧ (plan 2 6 42 96).length = 1932 ∧ (plan 2 6 42 96).count (-1) = 574 ∧ (plan 2 6 42 96).count 196 = 1 := by
  decide +kernel

/-- R197, R198, as V70 on the small panel: the plan is `Z0 V1 V2 V3 Z4 F F F`, a real line sends the value, a settle
line and a flush line send 0x00. -/
theorem test_frameFixed13_frames :
    dataFrames (exec .frameFixed13
        { t4 (answers 120 []) (quick 88) [] with args := { Args.zero with pix := 0x000000FF } })
      = some [[0x72, 0, 0x00, 0x03, 0x00], [0x72, 0, 0xFF, 0x0C, 0xFF], [0x72, 0, 0xFF, 0x30, 0xFF],
          [0x72, 0, 0xFF, 0xC0, 0xFF], [0x72, 0, 0x00, 0, 0x00], [0x72, 0, 0x00, 0, 0x00], [0x72, 0, 0x00, 0, 0x00],
          [0x72, 0, 0x00, 0, 0x00]] := by
  decide +kernel

/-- An image at 0x1000, P3's first bytes, and the small panel before FRAME_DATA_13. -/
def p3 : State :=
  { t4 (answers 120 []) (quick 88) [] with
    args := { Args.zero with fb := 0x1000 }
    mem := [(0x1000, 0x80), (0x1001, 0x01), (0x1002, 0xC3), (0x1003, 0x55)] }

/-- R197, R199, as P3 step 3 on the small panel: the inverse-stage bytes of V20, and each address read twice. -/
theorem test_frameData13_frames :
    dataFrames (exec .frameData13 p3)
        = some [[0x72, 0, 0x00, 0x03, 0x00], [0x72, 0, 0xFE, 0x0C, 0xFF], [0x72, 0, 0xBE, 0x30, 0xBE],
            [0x72, 0, 0xAA, 0xC0, 0xFF], [0x72, 0, 0x00, 0, 0x00], [0x72, 0, 0x00, 0, 0x00], [0x72, 0, 0x00, 0, 0x00],
            [0x72, 0, 0x00, 0, 0x00]]
      ∧ ((after (exec .frameData13 p3)).map fun s => memAddrs s.trace)
        = some [0x1001, 0x1001, 0x1002, 0x1002, 0x1003, 0x1003] := by
  decide +kernel

/-- One LINE of a pass on the small panel (R171, R190). -/
def ln (v : Byte) (i : Nat) : List Event :=
  en ++ f0 [0x70, 0x0A] ++ f0 [0x72, 0x00, v, [0x03, 0x0C, 0x30, 0xC0].getD i 0, v] ++ wr 0x02 0x07 ++ dis

/-- A pass on the small panel: lines 3 down to 0. -/
def lns (v : Byte) : List Event := [3, 2, 1, 0].flatMap (ln v)

/-- V56 on the small panel: the whole trace of FRAME_STAGE2. -/
theorem test_frameStage2_trace :
    portsOf (exec .frameStage2 (t4 (answers 180 []) (quick 132) [0, 12, 12, 25, 30, 41]))
      = some ([.clock 0] ++ lns 0xFF ++ [.clock 12, .clock 12] ++ lns 0xFF ++ [.clock 25, .clock 30] ++ lns 0xAA
          ++ [.clock 41]) := by
  decide +kernel

/-- V52's machine on the small panel: a clock of 8 bits that wraps. -/
def v52 : State :=
  { t4 (answers 120 []) (quick 88) [250, 4, 4, 14] with par := { (t4 [] [] []).par with clockBits := 8 } }

/-- V52: two passes, and the time measured is 20. -/
theorem test_timed_loop_wraps :
    (fun s : State => (s.work.acc, s.clockSeen)) (timedLoop .idle 0xFF 20 10 v52).state = (20, 4) := by
  decide +kernel

/-! ## BEGIN and END -/

/-- V40's trace through step 6, the ID and the status byte of step 5 given. -/
def begin6 (id status : Byte) : List Event :=
  [.status .ok, .pin .reset false, .pin .panelOn false, .pin .discharge false, .pin .border false, .pin .cs false]
    ++ en
    ++ [.delayMs 5, .pin .panelOn true, .delayMs 10, .pin .reset true, .pin .border true, .pin .cs true, .delayMs 5,
        .pin .reset false, .delayMs 5, .pin .reset true, .delayMs 5, .busy false]
    ++ fr [(0x71, 0), (0x00, id)] ++ fr [(0x71, 0), (0x00, id)]
    ++ wr 0x02 0x40 ++ f0 [0x70, 0x0F] ++ fr [(0x73, 0), (0x00, status)]
    ++ wr 0x0B 0x02 ++ f0 [0x70, 0x00] ++ f0 [0x72, 0x00, 0x00, 0x00, 0x00, 0x01, 0xFF, 0xE0, 0x00]
    ++ wr 0x07 0xD1 ++ wr 0x08 0x02 ++ wr 0x09 0xC2 ++ wr 0x04 0x03 ++ wr 0x03 0x01 ++ wr 0x03 0x00

/-- One attempt of step 7. -/
def attempt (status : Byte) : List Event :=
  wr 0x05 0x01 ++ [.delayMs 240] ++ wr 0x05 0x03 ++ [.delayMs 40] ++ wr 0x05 0x0F ++ [.delayMs 40]
    ++ f0 [0x70, 0x0F] ++ fr [(0x73, 0), (0x00, status)]

/-- V40's machine: ready at the second attempt. The ID is the answer to transfers 3 and 5, the status byte of step 5 to
transfer 13, those of step 7 to transfers 68 and 84. -/
def v40 : State := s200 (answers 91 [(3, 0x02), (5, 0x02), (13, 0x80), (68, 0x80), (84, 0xC0)]) (quick 88)

/-- V40: the whole trace and the end state. -/
theorem test_begin_ready :
    ((after (exec .beginCmd v40)).map fun s => (port s.trace, s.st, s.psm, s.pins, s.busEn, s.run))
      = some (begin6 0x02 0x80 ++ attempt 0x80 ++ attempt 0xC0 ++ wr 0x02 0x40 ++ dis, .ok, .ready,
          { reset := true, panelOn := true, discharge := false, border := true, cs := true }, false, false) := by
  decide +kernel

/-- V41's machine: no attempt reports ready. -/
def v41 : State :=
  s200 (answers 121 [(3, 0x12), (5, 0x12), (13, 0x80), (68, 0x80), (84, 0x80), (100, 0x80), (116, 0x80)]) (quick 116)

/-- V41 and V84: the whole trace, the end state, and what `STATUS` then reads. -/
theorem test_begin_power_failure :
    ((after (exec .beginCmd v41)).map fun s => (port s.trace, s.statusWord, s.psm, s.pins, s.busEn))
      = some (begin6 0x12 0x80 ++ (List.replicate 4 (attempt 0x80)).flatten ++ [.status .powerFailure] ++ poff,
          0x00000003, .poweredDown, Pins.low, false) := by
  decide +kernel

/-- V42's machine on the small panel, from `Ready`. The status byte is the answer to transfer 185. -/
def v42 : State :=
  { t4 (answers 240 [(185, 0x40)]) (quick 180) [] with psm := .ready, pins := Pins.powered }

/-- V42 on the small panel: the whole trace and the end state. -/
theorem test_end_success :
    ((after (exec .endCmd v42)).map fun s => (port s.trace, s.st, s.psm, s.pins, s.busEn))
      = some (lns 0xFF ++ [.delayMs 40] ++ lns 0xAA ++ [.delayMs 200] ++ lns 0x00 ++ [.delayMs 25]
          ++ en ++ f0 [0x70, 0x0F] ++ fr [(0x73, 0), (0x00, 0x40)]
          ++ wr 0x03 0x01 ++ wr 0x03 0x00 ++ wr 0x02 0x05 ++ wr 0x05 0x0E ++ wr 0x05 0x02 ++ wr 0x05 0x00
          ++ wr 0x07 0x0D ++ wr 0x04 0x83 ++ [.delayMs 120] ++ wr 0x04 0x00 ++ poff,
          .ok, .poweredDown, Pins.low, false) := by
  decide +kernel

/-- V43: END on the 2.7 inch panel, the re-verification fails. -/
theorem test_end_power_failure :
    ((after (exec .endCmd (s270 (answers 8 []) (quick 4)))).map fun s => (port s.trace, s.st, s.psm, s.pins))
      = some ([.delayMs 25, .pin .border false, .delayMs 250, .pin .border true] ++ en ++ f0 [0x70, 0x0F]
          ++ f0 [0x73, 0x00] ++ [.status .powerFailure] ++ poff, .powerFailure, .poweredDown, Pins.low) := by
  decide +kernel

/-! ## The wire frames (V38) -/

/-- V38d: the two frames of a register write. -/
theorem test_wire_select_write :
    portsOf (exec (.wireSelect 0x02) (s200 (answers 2 []) (quick 2))) = some (f0 [0x70, 0x02])
      ∧ portsOf (exec (.wireWrite 0x40 []) (s200 (answers 2 []) (quick 2))) = some (f0 [0x72, 0x40]) := by
  decide +kernel

/-- V38f: the ID read returns the last byte and captures both. -/
theorem test_wire_idRead :
    ((after (exec (.wireIdRead 0x00) (s200 [0x5A, 0x12] (quick 2)))).map fun s =>
        (s.trace, s.work.last, s.rxcap.toList))
      = some (fr [(0x71, 0x5A), (0x00, 0x12)], 0x12, [0x5A, 0x12, 0, 0]) := by
  decide +kernel

/-- V38e: the status read. -/
theorem test_wire_regRead :
    ((after (exec (.wireRegRead 0x00) (s200 [0x00, 0xC0] (quick 2)))).map fun s =>
        (s.trace, s.work.last, s.rxcap.toList))
      = some (fr [(0x73, 0x00), (0x00, 0xC0)], 0xC0, [0x00, 0xC0, 0, 0]) := by
  decide +kernel

/-- R90: a data frame of T8. -/
theorem test_wire_lineData :
    portsOf (exec (.wireLineData 0x00 [0xEB] [0x0C, 0x00] [0xED]) (t8 (answers 6 []) (quick 6) []))
      = some (f0 [0x72, 0x00, 0xEB, 0x0C, 0x00, 0xED]) := by
  decide +kernel

/-! ## The host's port and reset (V80 to V88) -/

/-- V80 to V82: reserved words are ignored. -/
theorem test_host_reserved_ignored :
    ∀ w ∈ [0x00000000#32, 0x00000008, 0x0000000F, 0x00000011, 0x80000001, 0x00000103],
      step { State.reset with hostQ := [.write 32 0 w] } = .next State.reset := by
  simp only [List.mem_cons, List.not_mem_nil, or_false, forall_eq_or_imp, forall_eq]
  exact ⟨rfl, rfl, rfl, rfl, rfl, rfl⟩

/-- V86: what is read after reset. -/
theorem test_host_reads_after_reset :
    ([0x04, 0x00, 0x18].map fun o : Nat =>
        (after (step { State.reset with hostRd := 0xFF, hostQ := [.read 32 o] })).map fun s => s.hostRd)
      = [some 0, some 0, some 0] := by
  decide +kernel

/-- V87, and R23, R24: a write of `STATUS` is ignored, one of `ARG_TEMP` is stored. -/
theorem test_host_writes :
    step { State.reset with hostQ := [.write 32 0x04 0xFFFFFFFF] } = .next State.reset
      ∧ (after (step { State.reset with hostQ := [.write 32 0x10 41] })).map (fun s => s.args.temp) = some 41 :=
  ⟨rfl, rfl⟩

/-- V1 to V6: the size a strap code selects at reset. -/
theorem test_reset_sizes :
    ([0x00, 0x01, 0x02, 0x03, 0xFF, 0x80].map fun c : Byte =>
        (after (step { State.reset with sizeSel := c, hostQ := [.reset] })).map fun s => (s.size, s.lines))
      = [some (.s144, 96), some (.s200, 96), some (.s270, 176), some (.s144, 96), some (.s144, 96),
          some (.s144, 96)] := by
  decide +kernel

/-- V88: reset while a LINE hangs (R251). -/
theorem test_reset_while_running :
    ((after (step { State.reset with
        run := true, pos := .busyWait false, st := .powerFailure, toff := 2, psm := .poweringUp, pins := Pins.powered,
        busEn := true, args := { line := 1, pix := 2, temp := 3, fb := 4 }, hostQ := [.reset] })).map
      fun s => (s.statusWord, s.toff, s.psm, s.pins, s.args))
      = some (0, 1, .uninitialized, Pins.low, Args.zero) := by
  decide +kernel

/-- A table word placed by `withFetchWord` is what the next step runs. -/
theorem test_fetch_runs_the_word :
    ((after (step ({ State.reset with args := { Args.zero with temp := 41 } }.withFetchWord 32 3))).map
        fun s => s.toff) = some 2
      ∧ ((after (step ((s200 [0x5A, 0x12] (quick 2)).withFetchWord 16 0x7100))).map fun s => s.work.last)
        = some 0x12 := by
  decide +kernel

/-! ## Witnesses: for every obligation with hypotheses, states and operands that meet them -/

/-- One well-formed instruction of each shape, in one context. -/
theorem witness_DecodeOfEncodeIsIdentity :
    Instr.line.wellFormed ⟨some 0x0A, 1, 2⟩ = true ∧ (Instr.wireSelect 0xFF).wellFormed ⟨none, 0, 0⟩ = true
      ∧ (Instr.wireWrite 0x40 []).wellFormed ⟨some 0x02, 25, 24⟩ = true
      ∧ (Instr.wireWrite 0x00 [0, 0, 0, 1, 0xFF, 0xE0, 0]).wellFormed ⟨none, 25, 24⟩ = true
      ∧ (Instr.wireLineData 0x00 [0xEB] [0x0C, 0x00] [0xED]).wellFormed ⟨some 0x0A, 1, 2⟩ = true := by decide

theorem witness_EncodeOfDecodeIsIdentity :
    decode ⟨none, 25, 24⟩ (.cmd 7) = .ok .line
      ∧ decode ⟨some 0x0A, 0, 0⟩ (.frame [0x72, 0xAB]) = .ok (.wireLineData 0xAB [] [] [])
      ∧ decode ⟨some 0x0A, 1, 2⟩ (.frame [0x72, 0x00, 0xEB, 0x0C, 0x00, 0xED])
        = .ok (.wireLineData 0x00 [0xEB] [0x0C, 0x00] [0xED]) := by decide

/-- The machine after reset with one thing for the host to do. -/
def asked (a : HostAct) : State := { State.reset with hostQ := [a] }

/-- The words next to the seven commands while idle, and a command while one runs. -/
theorem witness_ReservedCommandIgnored :
    ((asked (.write 32 0 0)).hostQ = .write 32 0 0 :: [] ∧ ¬ (1 ≤ (0 : Word).toNat ∧ (0 : Word).toNat ≤ 7))
      ∧ ((asked (.write 32 0 8)).hostQ = .write 32 0 8 :: [] ∧ ¬ (1 ≤ (8 : Word).toNat ∧ (8 : Word).toNat ≤ 7))
      ∧ ({ asked (.write 32 0 7) with run := true, pos := .busyWait false } : State).hostQ = .write 32 0 7 :: []
      ∧ ({ asked (.write 32 0 7) with run := true, pos := .busyWait false } : State).run = true :=
  ⟨⟨rfl, by decide⟩, ⟨rfl, by decide⟩, rfl, rfl⟩

theorem witness_StepRunsAcceptedCommand :
    (asked (.write 32 0 7)).hostQ = .write 32 0 7 :: [] ∧ (asked (.write 32 0 7)).run = false
      ∧ decodeCmd 7 = .ok .line := ⟨rfl, rfl, by decide⟩

/-- Before two frames, with nothing asked and with the host waiting. -/
def before (q : List HostAct) : State :=
  { s200 (answers 4 []) (quick 4) with run := true, pos := .sending [[0x70, 0x02], [0x72, 0x40]], hostQ := q }

theorem witness_StepSendsPendingFrame :
    (before []).run = true ∧ (before []).pos = .sending ([0x70, 0x02] :: [[0x72, 0x40]])
      ∧ (before []).hostQ = [] ∧ (before [.wait]).hostQ = .wait :: []
      ∧ decodeFrame (Sequencer.wireCtx (before [])) [0x70, 0x02] = .ok (.wireSelect 0x02)
      ∧ decodeFrame (Sequencer.wireCtx (before [.wait])) [0x70, 0x02] = .ok (.wireSelect 0x02) :=
  ⟨rfl, rfl, rfl, rfl, rfl, rfl⟩

theorem witness_IdleHolds : State.reset.run = false ∧ State.reset.hostQ = [] := ⟨rfl, rfl⟩

/-- Each register and the first unused offset, an argument register also with `RUN = 1`, another width, and an offset
that is no multiple of 4. -/
theorem witness_HostReadOfEveryOffset :
    (∀ o ∈ [0x00, 0x04, 0x08, 0x0C, 0x10, 0x14, 0x18], (asked (.read 32 o)).hostQ = .read 32 o :: [] ∧ o % 4 = 0)
      ∧ (fun s : State => s.hostQ = .read 32 0x08 :: [] ∧ s.run = true)
        { asked (.read 32 0x08) with run := true, pos := .busyWait false }
      ∧ ((asked (.read 16 0x08)).hostQ = .read 16 0x08 :: [] ∧ ¬ (16 = 32 ∧ 0x08 % 4 = 0))
      ∧ ((asked (.read 32 0x16)).hostQ = .read 32 0x16 :: [] ∧ ¬ (32 = 32 ∧ 0x16 % 4 = 0)) := by
  refine ⟨fun o ho => ⟨rfl, ?_⟩, ⟨rfl, rfl⟩, ⟨rfl, by decide⟩, ⟨rfl, by decide⟩⟩
  revert o
  decide

/-- `STATUS`, each argument register and the offsets around them, with `RUN = 0` and with `RUN = 1`; another
width, an offset that is no multiple of 4, and the boundary 0x00 at another width. -/
theorem witness_HostWriteOfEveryOffset :
    (∀ o ∈ [0x04, 0x08, 0x0C, 0x10, 0x14, 0x18],
      (asked (.write 32 o 0xFFFFFFFF)).hostQ = .write 32 o 0xFFFFFFFF :: [] ∧ o % 4 = 0 ∧ o ≠ 0)
      ∧ (fun s : State => s.hostQ = .write 32 0x08 1 :: [] ∧ s.run = true)
        { asked (.write 32 0x08 1) with run := true, pos := .busyWait false }
      ∧ ((asked (.write 16 0x08 1)).hostQ = .write 16 0x08 1 :: [] ∧ ¬ (16 = 32 ∧ 0x08 % 4 = 0))
      ∧ ((asked (.write 32 0x16 1)).hostQ = .write 32 0x16 1 :: [] ∧ ¬ (32 = 32 ∧ 0x16 % 4 = 0))
      ∧ ((asked (.write 8 0x00 1)).hostQ = .write 8 0x00 1 :: [] ∧ ¬ (8 = 32 ∧ 0x00 % 4 = 0)) := by
  refine ⟨fun o ho => ⟨rfl, ?_⟩, ⟨rfl, rfl⟩, ⟨rfl, by decide⟩, ⟨rfl, by decide⟩, ⟨rfl, by decide⟩⟩
  revert o
  decide

/-- The first and the last address of the space, the first outside it, and a fill while an operation runs. -/
theorem witness_HostFillThenBufferRead :
    ((asked (.poke 0 0xFF)).hostQ = .poke 0 0xFF :: [] ∧ (asked (.poke 0 0xFF)).mem.wf
        ∧ (asked (.poke 0 0xFF)).run = false ∧ 0 < 2 ^ (asked (.poke 0 0xFF)).par.addrBits)
      ∧ ((asked (.poke 0xFFFFFFFF 0xFF)).run = false ∧ 0xFFFFFFFF < 2 ^ (asked (.poke 0xFFFFFFFF 0xFF)).par.addrBits)
      ∧ ((asked (.poke 0x100000000 0xFF)).run = false
        ∧ 2 ^ (asked (.poke 0x100000000 0xFF)).par.addrBits ≤ 0x100000000)
      ∧ ({ asked (.poke 0 0xFF) with run := true, pos := .busyWait true } : State).run = true := by
  decide +kernel

/-- Each code of the strap and one that is none, while an operation runs. -/
theorem witness_ResetValues :
    ∀ c ∈ [0x00#8, 0x01, 0x02, 0x03, 0xFF],
      ({ asked .reset with sizeSel := c, run := true, pos := .busyWait false } : State).hostQ = .reset :: []
        ∧ ∀ z, (({ asked .reset with sizeSel := c, run := true, pos := .busyWait false } : State).par.profile z).wf
            = true := by
  intro c _
  refine ⟨rfl, fun z => ?_⟩
  cases z <;> rfl

/-- The machine before a reset, with another profile for the 2.7 inch panel; the strap selects the 2.0 inch panel. -/
def badTable (p : Profile) : State :=
  { asked .reset with par := { (asked .reset).par with profile270 := p } }

/-- A row that the strap does not select, one break of each invariant, and a row that keeps them all. -/
theorem witness_ResetRefusesIllFormedTable :
    (∀ p ∈ [{ profileT8 with dotsPerLine := 7 }, { profileT8 with linesPerDisplay := 9 },
        { profileT8 with channelSelect := [0x72, 0, 0, 0, 0, 0, 0, 0] },
        { profileT8 with channelSelect := [0x73, 0, 0, 0, 0, 0, 0, 0, 0xFF] }],
      (badTable p).hostQ = .reset :: [] ∧ ((badTable p).par.profile .s270).wf = false
        ∧ resolveSize (badTable p).sizeSel = .s200)
      ∧ ((badTable profileT8).par.profile .s270).wf = true := by
  decide +kernel

theorem witness_StrapSetsSelectorOnly : (asked (.strap 0xFF)).hostQ = .strap 0xFF :: [] := rfl

/-- A reset that changes the size, a strap that is set, and a step that is neither. -/
theorem witness_SizeChangesOnlyAtReset :
    ((after (step { asked .reset with sizeSel := 2 })).map fun t => (t.size, t.sizeSel)) = some (.s270, 2)
      ∧ ((after (step (asked (.strap 2)))).map fun t => (t.size, t.sizeSel)) = some (.s200, 2)
      ∧ ((after (step (asked (.read 32 0x04)))).map fun t => (t.size, t.sizeSel)) = some (.s200, 1) := by
  decide +kernel

/-- A wait that ends at once, one that ends after three samples, and one that does not end. -/
theorem witness_ByteThenBusyWait :
    (s200 [0xAB] [some 0]).env.waitAt (s200 [0xAB] [some 0]).waitSeen = some 0
      ∧ (s200 [0xAB] [some 3]).env.waitAt (s200 [0xAB] [some 3]).waitSeen = some 3
      ∧ (s200 [0xAB] [none]).env.waitAt (s200 [0xAB] [none]).waitSeen = none := by decide

theorem witness_WireSelectFrame : Responsive (s200 [0x5A, 0x12] (quick 2)) 2 := by decide

/-- Payloads of one byte and of eight. -/
theorem witness_WireWriteFrame :
    Responsive (s200 [] (quick 2)) (2 + ([] : List Byte).length)
      ∧ Responsive (s200 [] (quick 9)) (2 + ([0, 0, 0, 1, 0xFF, 0xE0, 0] : List Byte).length) := by decide

theorem witness_WireLineDataFrame :
    Responsive (s200 [] (quick 6))
      (2 + ([0xEB] : List Byte).length + ([0x0C, 0x00] : List Byte).length + ([0xED] : List Byte).length) := by decide

/-- Both read frames. -/
theorem witness_WireReadFrames :
    ((Instr.wireIdRead 5 = .wireIdRead 5 ∧ (0x71 : Byte) = 0x71) ∧ (Instr.wireRegRead 6 = .wireRegRead 6 ∧ (0x73 : Byte) = 0x73))
      ∧ Responsive (s200 [0x5A, 0x12] (quick 2)) 2 := by decide

/-- The first and the last real index of a panel with 24 scan bytes, and the first that is none; no scan byte at all. -/
theorem witness_ScanActivatesOneRow : 0 < 4 * 24 ∧ 95 < 4 * 24 ∧ 4 * 24 ≤ 96 ∧ 4 * 0 ≤ 0 := by decide

theorem witness_LineCompletes : Responsive (v36 (quick 12)) (v36 (quick 12)).lineWaits := by decide +kernel

/-- V36's machine with a fixed fill. -/
def fillStart : State := { v36 (quick 12) with args := { line := 5, pix := 0x00005500, temp := 0, fb := 0x1000 } }

/-- A fixed fill in either stage. -/
theorem witness_FixedFillIgnoresStage :
    fillStart.args.usesData = false ∧ Responsive fillStart fillStart.lineWaits
      ∧ ∀ k, k ≠ 16 → (0x00015500 : Word).getLsbD k = fillStart.args.pix.getLsbD k := by
  refine ⟨by decide, by decide +kernel, fun k hk => ?_⟩
  by_cases h : k < 32
  · revert hk
    revert k
    decide
  · rw [BitVec.getLsbD_of_ge _ _ (by omega), BitVec.getLsbD_of_ge _ _ (by omega)]

/-- Equal samples, and samples at the two ends of the range in both orders. -/
theorem witness_ElapsedIsModular : 0 < 2 ^ 32 ∧ 2 ^ 32 - 1 < 2 ^ 32 ∧ 0 < 2 ^ 0 := by decide

theorem witness_SweepVisitCount : 1 ≤ 1 ∧ 1 ≤ 2 := by decide

theorem witness_SweepCoversPanel : 1 ≤ 2 ∧ 1 ≤ 8 := by decide

/-- V60's sweep: the first and the last position on its grid. -/
theorem witness_SweepEndsOnSettleLine :
    1 ≤ 1 ∧ 1 ≤ 2 ∧ 1 ≤ 4 ∧ (0 ≤ 8 ∧ (((0 : Nat) : Int) - (((2 : Nat) : Int) - ((4 : Nat) : Int))) % ((2 : Nat) : Int) = 0)
      ∧ (8 ≤ 8 ∧ (((8 : Nat) : Int) - (((2 : Nat) : Int) - ((4 : Nat) : Int))) % ((2 : Nat) : Int) = 0) := by decide

/-- The small panel before FRAME_FIXED_13. -/
def fixedStart (pix : Word) : State :=
  { t4 (answers 120 []) (quick 88) [] with args := { Args.zero with pix := pix } }

/-- A band whose stage 1 has no pass, with a given step. -/
def noPass (step : Half) : State := t8with { bandTB with stage1Repeat := 0, stage1Step := step } [] [] []

/-- A panel without a line, and a band whose step is 0 and whose block is given. -/
def noLine (block : Half) : State :=
  { t8with { bandTB with stage1Step := 0, stage1Block := block } [] [] [] with
    par := { (t8with { bandTB with stage1Step := 0, stage1Block := block } [] [] []).par with
      profile144 := { profileT8 with linesPerDisplay := 0, bytesPerScan := 0 } } }

/-- Either stage on the small panel (8 visits); no visit: a band without a pass, whose step is 2 or 0, and a step of 0
with no line and no block. -/
theorem witness_FrameFixedCompletes :
    (1 ≤ (sweepParams (fixedStart 0x000000FF).band (fixedStart 0x000000FF).args.stage).step
        ∧ Responsive (fixedStart 0x000000FF) (8 * (fixedStart 0x000000FF).lineWaits)
        ∧ ((sweepParams (fixedStart 0x000000FF).band (fixedStart 0x000000FF).args.stage).visits
            (fixedStart 0x000000FF).lines).length = 8)
      ∧ (1 ≤ (sweepParams (fixedStart 0x000100FF).band (fixedStart 0x000100FF).args.stage).step
        ∧ Responsive (fixedStart 0x000100FF) (8 * (fixedStart 0x000100FF).lineWaits)
        ∧ ((sweepParams (fixedStart 0x000100FF).band (fixedStart 0x000100FF).args.stage).visits
            (fixedStart 0x000100FF).lines).length = 8)
      ∧ (fun s : State => 1 ≤ (sweepParams s.band s.args.stage).step
        ∧ ((sweepParams s.band s.args.stage).visits s.lines).length = 0) (noPass 2)
      ∧ (fun s : State => (sweepParams s.band s.args.stage).step = 0 ∧ (sweepParams s.band s.args.stage).rep = 0
        ∧ ((sweepParams s.band s.args.stage).visits s.lines).length = 0) (noPass 0)
      ∧ (fun s : State => (sweepParams s.band s.args.stage).step = 0
        ∧ s.lines + (sweepParams s.band s.args.stage).block = 0
        ∧ ((sweepParams s.band s.args.stage).visits s.lines).length = 0) (noLine 0) := by
  decide +kernel

/-- The small panel before FRAME_DATA_13, and a step of 0 without a pass. -/
theorem witness_FrameDataCompletes :
    (1 ≤ (sweepParams p3.band p3.args.stage).step
        ∧ Responsive p3 (((sweepParams p3.band p3.args.stage).visits p3.lines).length * p3.lineWaits))
      ∧ (fun s : State => (sweepParams s.band s.args.stage).step = 0 ∧ (sweepParams s.band s.args.stage).rep = 0
        ∧ ((sweepParams s.band s.args.stage).visits s.lines).length = 0) (noPass 0) := by
  decide +kernel

/-- A band whose step is 0, on a panel with lines and on one without a line but with a block of 1; and the positions the
sweep then holds, with nothing from the host and with the host waiting. -/
theorem witness_ZeroStepSweepNeverReturns :
    (fun s : State => (sweepParams s.band s.args.stage).step = 0 ∧ 1 ≤ (sweepParams s.band s.args.stage).rep
        ∧ 1 ≤ s.lines + (sweepParams s.band s.args.stage).block) (t8with { bandTB with stage1Step := 0 } [] [] [])
      ∧ (fun s : State => (sweepParams s.band s.args.stage).step = 0 ∧ 1 ≤ (sweepParams s.band s.args.stage).rep
        ∧ s.lines + (sweepParams s.band s.args.stage).block = 1) (noLine 1)
      ∧ (fun s : State => s.run = true ∧ s.pos = .zeroStep 4 ∧ s.hostQ = [])
        { State.reset with run := true, pos := .zeroStep 4 }
      ∧ (fun s : State => s.run = true ∧ s.pos = .busyWait false ∧ s.hostQ = .wait :: [])
        { State.reset with run := true, pos := .busyWait false, hostQ := [.wait] } := by
  decide +kernel

/-- V56's machine on the small panel. -/
def v56 : State := t4 (answers 180 []) (quick 132) [0, 12, 12, 25, 30, 41]

/-- The small panel with another band for stage 2 and a clock of 4 bits, before FRAME_STAGE2. -/
def stage2 (rep time1 time2 : Half) (clock : List Nat) : State :=
  { t4 [] (quick 132) clock with
    par := { (t4 [] [] []).par with
      clockBits := 4
      comp144 := (fun b : Band => { low := b, mid := b, high := b })
        { bandT4 with stage2Repeat := rep, stage2Time1 := time1, stage2Time2 := time2 } } }

/-- V56: two passes of 0xFF, one of 0xAA; minima of 0 without a scripted sample, one pass each; and no half at all. -/
theorem witness_FrameStage2Completes :
    (PassPlan v56 0 (stage2Halves v56.band) v56.clockSeen [2, 1]
        ∧ Responsive v56 ([2, 1].sum * v56.lines * v56.lineWaits))
      ∧ (PassPlan (stage2 1 0 0 []) 0 (stage2Halves (stage2 1 0 0 []).band) (stage2 1 0 0 []).clockSeen [1, 1]
        ∧ Responsive (stage2 1 0 0 []) ([1, 1].sum * (stage2 1 0 0 []).lines * (stage2 1 0 0 []).lineWaits))
      ∧ PassPlan (stage2 0 20 10 []) 0 (stage2Halves (stage2 0 20 10 []).band) 0 [] := by
  refine ⟨⟨⟨by decide +kernel, by decide +kernel, by decide +kernel, by decide +kernel, by decide +kernel,
    by decide +kernel, by decide +kernel, by decide +kernel, trivial⟩, by decide +kernel⟩,
    ⟨⟨by decide, by decide +kernel, Nat.zero_le _, fun j hj hn => by omega, by decide, by decide +kernel,
      Nat.zero_le _, fun j hj hn => by omega, trivial⟩, by decide +kernel⟩, trivial⟩

/-- The time one pass measures on a clock of 4 bits. -/
theorem measured_one_lt {s : State} (h : s.par.clockBits = 4) (c : Nat) : measured s c 1 < 16 := by
  have h0 : ∀ n, s.env.clockAt 4 n < 16 := fun n => Nat.mod_lt _ (by decide)
  have := h0 c
  have := h0 (c + 1)
  show 0 + elapsed s.par.clockBits (s.env.clockAt s.par.clockBits c) (s.env.clockAt s.par.clockBits (c + 1)) < 16
  rw [h, elapsed]
  split <;> omega

/-- The first half reaches its minimum in two passes and the second falls short past the script; and the first half
falls short at once. -/
theorem witness_FrameStage2StopsBetweenPasses :
    (stage2Halves (stage2 1 20 20 [0, 12, 12, 9]).band = [(0xFF, 20)] ++ (0xAA, 20) :: []
        ∧ PassPlan (stage2 1 20 20 [0, 12, 12, 9]) 0 [(0xFF, 20)] (stage2 1 20 20 [0, 12, 12, 9]).clockSeen [2]
        ∧ stepPasses (stage2 1 20 20 [0, 12, 12, 9]) 4 = 1
        ∧ measured (stage2 1 20 20 [0, 12, 12, 9]) 4 1 < 20
        ∧ Responsive (stage2 1 20 20 [0, 12, 12, 9])
          (([2].sum + 1) * (stage2 1 20 20 [0, 12, 12, 9]).lines * (stage2 1 20 20 [0, 12, 12, 9]).lineWaits))
      ∧ (stage2Halves (stage2 1 20 20 []).band = [] ++ (0xFF, 20) :: [(0xAA, 20)]
        ∧ PassPlan (stage2 1 20 20 []) 0 [] (stage2 1 20 20 []).clockSeen []
        ∧ stepPasses (stage2 1 20 20 []) 0 = 1 ∧ measured (stage2 1 20 20 []) 0 1 < 20
        ∧ Responsive (stage2 1 20 20 []) (1 * (stage2 1 20 20 []).lines * (stage2 1 20 20 []).lineWaits)) :=
  ⟨⟨by decide +kernel, ⟨by decide, by decide +kernel, by decide +kernel, by decide +kernel, trivial⟩, by decide +kernel,
      Nat.lt_trans (measured_one_lt rfl 4) (by decide), by decide +kernel⟩,
    by decide +kernel, trivial, by decide +kernel, Nat.lt_trans (measured_one_lt rfl 0) (by decide), by decide +kernel⟩

/-- Between two passes, with 12 ms measured: `todo` still to run. -/
def between (todo : List (Byte × Nat)) (clock : List Nat) (q : List HostAct) : State :=
  { stage2 1 20 10 clock with
    run := true, pos := .timed todo, work := { Work.zero with acc := 12 }, hostQ := q }

/-- One more pass of 0xFF (12 + 13 reach 20), one of 0xAA (9 reach 9), the host waiting; and a minimum that is reached
past the script. -/
theorem witness_TimedHalvesResume :
    (fun s : State => s.run = true ∧ s.pos = .timed [(0xFF, 20), (0xAA, 9)] ∧ s.hostQ = .wait :: []
        ∧ PassPlan s s.work.acc [(0xFF, 20), (0xAA, 9)] s.clockSeen [1, 1]
        ∧ Responsive s ([1, 1].sum * s.lines * s.lineWaits))
        (between [(0xFF, 20), (0xAA, 9)] [12, 9, 14, 7] [.wait])
      ∧ (fun s : State => s.hostQ = [] ∧ PassPlan s s.work.acc [(0xAA, 12)] s.clockSeen [1])
        (between [(0xAA, 12)] [] []) :=
  ⟨⟨rfl, rfl, rfl, ⟨by decide, by decide +kernel, by decide +kernel, by decide +kernel, by decide, by decide +kernel,
      by decide +kernel, by decide +kernel, trivial⟩, by decide +kernel⟩,
    rfl, by decide, by decide +kernel, Nat.le_add_right _ _, fun j hj hn => by omega, trivial⟩

/-- Past the script 12 + 15 ms at most do not reach 28; and where the first half reaches its minimum, the second starts
from 0 and does not reach 16. -/
theorem witness_StalledClockKeepsLooping :
    (fun s : State => s.run = true ∧ s.pos = .timed ([] ++ (0xFF, 28) :: []) ∧ s.hostQ = []
        ∧ PassPlan s s.work.acc [] s.clockSeen [] ∧ stepPasses s s.clockSeen = 1
        ∧ s.work.acc + measured s s.clockSeen 1 < 28 ∧ Responsive s (1 * s.lines * s.lineWaits))
        (between [(0xFF, 28)] [] [])
      ∧ (fun s : State => s.run = true ∧ s.pos = .timed ([(0xFF, 20)] ++ (0xAA, 16) :: []) ∧ s.hostQ = .wait :: []
        ∧ PassPlan s s.work.acc [(0xFF, 20)] s.clockSeen [1] ∧ stepPasses s (s.clockSeen + 2) = 1
        ∧ 0 + measured s (s.clockSeen + 2) 1 < 16 ∧ Responsive s ((1 + 1) * s.lines * s.lineWaits))
        (between [(0xFF, 20), (0xAA, 16)] [12, 9] [.wait]) :=
  ⟨⟨rfl, rfl, rfl, trivial, by decide +kernel, Nat.add_lt_add_left (measured_one_lt rfl 0) 12, by decide +kernel⟩,
    rfl, rfl, rfl, ⟨by decide, by decide +kernel, by decide +kernel, by decide +kernel, trivial⟩, by decide +kernel,
    lt_of_eq_of_lt (Nat.zero_add _) (measured_one_lt rfl 2), by decide +kernel⟩

/-- V40's machine: ready at the second attempt, `k = 1`; and one ready at the last, `k = 3`. -/
theorem witness_BeginReachesReady :
    (1 < 4 ∧ Responsive v40 (47 + v40.profile.channelSelect.length + 16 * (1 + 1))
        ∧ v40.answer 5 &&& 0x0F = 0x02 ∧ v40.answer 13 &&& 0x80 ≠ 0
        ∧ (∀ j < 1, v40.pumpAnswer j &&& v40.par.dcdcMask = 0) ∧ v40.pumpAnswer 1 &&& v40.par.dcdcMask ≠ 0)
      ∧ (fun s : State => 3 < 4 ∧ Responsive s (47 + s.profile.channelSelect.length + 16 * (3 + 1))
        ∧ s.answer 5 &&& 0x0F = 0x02 ∧ s.answer 13 &&& 0x80 ≠ 0
        ∧ (∀ j < 3, s.pumpAnswer j &&& s.par.dcdcMask = 0) ∧ s.pumpAnswer 3 &&& s.par.dcdcMask ≠ 0)
        (s200 (answers 117 [(5, 0xF2), (13, 0x80), (116, 0x40)]) (quick 120)) := by
  decide +kernel

/-- V45's machine: the ID is 0xF3. -/
def v45 : State := s200 (answers 8 [(3, 0xF3), (5, 0xF3)]) (quick 5)

theorem witness_BeginRaisesUnsupportedController : Responsive v45 5 ∧ v45.answer 5 &&& 0x0F ≠ 0x02 := by decide +kernel

/-- P2's machine: the status byte is 0x00. -/
def p2 : State := s200 (answers 16 [(3, 0x02), (5, 0x02)]) (quick 13)

theorem witness_BeginRaisesPanelBroken :
    Responsive p2 13 ∧ p2.answer 5 &&& 0x0F = 0x02 ∧ p2.answer 13 &&& 0x80 = 0 := by decide +kernel

theorem witness_BeginRaisesPowerFailure :
    Responsive v41 (107 + v41.profile.channelSelect.length) ∧ v41.answer 5 &&& 0x0F = 0x02
      ∧ v41.answer 13 &&& 0x80 ≠ 0 ∧ (∀ j < 4, v41.pumpAnswer j &&& v41.par.dcdcMask = 0) := by
  decide +kernel

/-- V48: BUSY sampled 1 for ever in the ready wait, and the position then held, with nothing from the host and with the
host waiting. -/
theorem witness_BeginHangsInReadyWait :
    (s200 [] [none]).env.waitAt (s200 [] [none]).waitSeen = none
      ∧ (fun s : State => s.run = true ∧ s.pos = .busyWait true ∧ s.hostQ = [])
        { State.reset with run := true, pos := .busyWait true }
      ∧ (fun s : State => s.run = true ∧ s.pos = .busyWait false ∧ s.hostQ = .wait :: [])
        { State.reset with run := true, pos := .busyWait false, hostQ := [.wait] } := by
  decide +kernel

/-- Both outcomes: V40's machine and V45's. -/
theorem witness_BeginHasTwoOutcomes :
    (∃ t, exec .beginCmd v40 = .next t ∧ t.run = false ∧ t.st = .ok)
      ∧ ∃ t, exec .beginCmd v45 = .next t ∧ t.run = false ∧ t.st = .unsupportedController :=
  ⟨⟨(beginOp (accept v40)).finish, rfl, by decide +kernel⟩, ⟨(beginOp (accept v45)).finish, rfl, by decide +kernel⟩⟩

/-- On the 2.7 inch panel, whose flush has no LINE, and on the small one. -/
theorem witness_EndPowersDown :
    (fun s : State => Responsive s (s.flushLines * s.lineWaits + 40) ∧ s.endAnswer &&& s.par.dcdcMask ≠ 0)
        (s270 (answers 60 [(5, 0x40)]) (quick 40))
      ∧ Responsive v42 (v42.flushLines * v42.lineWaits + 40) ∧ v42.endAnswer &&& v42.par.dcdcMask ≠ 0 := by
  decide +kernel

theorem witness_EndRaisesPowerFailure :
    (fun s : State => Responsive s (s.flushLines * s.lineWaits + 4) ∧ s.endAnswer &&& s.par.dcdcMask = 0)
      (s270 (answers 8 []) (quick 4)) := by
  decide +kernel

/-- Both outcomes. -/
theorem witness_EndAlwaysPowersDown :
    (∃ t, exec .endCmd (s270 (answers 8 []) (quick 4)) = .next t ∧ t.run = false ∧ t.st = .powerFailure)
      ∧ ∃ t, exec .endCmd (s270 (answers 60 [(5, 0x40)]) (quick 40)) = .next t ∧ t.run = false ∧ t.st = .ok :=
  ⟨⟨(endOp (accept (s270 (answers 8 []) (quick 4)))).finish, rfl, by decide +kernel⟩,
    ⟨(endOp (accept (s270 (answers 60 [(5, 0x40)]) (quick 40)))).finish, rfl, by decide +kernel⟩⟩

/-- A next state for the claims over every instruction. -/
theorem witness_ExecLeavesHostSideUntouched : ∃ t, exec .line (v36 (quick 12)) = .next t :=
  ⟨(lineOp (accept (v36 (quick 12))).work.lineArgs (accept (v36 (quick 12)))).finish, rfl⟩

/-- A next state of an instruction that is not SETFACTOR, BEGIN or END, and of one that is not SETFACTOR. -/
theorem witness_WritersOfStatusPowerAndBand :
    (∃ t, exec .line (v36 (quick 12)) = .next t) ∧ Instr.line ≠ .setFactor ∧ Instr.line ≠ .beginCmd
      ∧ Instr.line ≠ .endCmd ∧ (∃ t, exec .beginCmd v45 = .next t) ∧ Instr.beginCmd ≠ .setFactor :=
  ⟨⟨(lineOp (accept (v36 (quick 12))).work.lineArgs (accept (v36 (quick 12)))).finish, rfl⟩, by decide,
    by decide, by decide, ⟨(beginOp (accept v45)).finish, rfl⟩, by decide⟩

/-- Each of the three codes left where `ST` was Ok. -/
theorem witness_FaultCodesByCommand :
    (∃ t, exec .beginCmd v45 = .next t ∧ t.st = .unsupportedController)
      ∧ (∃ t, exec .beginCmd p2 = .next t ∧ t.st = .panelBroken)
      ∧ ∃ t, exec .endCmd (s270 (answers 8 []) (quick 4)) = .next t ∧ t.st = .powerFailure :=
  ⟨⟨(beginOp (accept v45)).finish, rfl, by decide +kernel⟩, ⟨(beginOp (accept p2)).finish, rfl, by decide +kernel⟩,
    ⟨(endOp (accept (s270 (answers 8 []) (quick 4)))).finish, rfl, by decide +kernel⟩⟩

/-- A powered panel with a SETFACTOR to come. -/
def poweredState : State := { s270 [] [] with hostQ := [.write 32 0 3], mem := [(0x1000, 0x80), (0x1001, 0x01)] }

theorem witness_StepKeepsInvariant : Inv poweredState ∧ ∃ t, step poweredState = .next t :=
  ⟨{ runPos := by decide
     notSending := fun _ h => nomatch h
     busOff := fun _ => rfl
     psmSettled := fun _ => Or.inr (Or.inl rfl)
     readyPins := fun _ _ => rfl
     downPins := fun _ h => absurd rfl h
     memWf := by decide }, ⟨_, rfl⟩⟩

theorem witness_StepKeepsConfiguration : ∃ t, step poweredState = .next t := ⟨_, rfl⟩

theorem witness_TraceOnlyGrows : ∃ t, step poweredState = .next t := ⟨_, rfl⟩

end Sys2Proof.Tests
end

/-! What every instruction keeps, whatever the environment answers (`Ran`), said once for BEGIN, END and the
fault path too; and from it, that a step only appends to the trace. -/

namespace Sys2Proof.Machine

/-! ## What every instruction keeps -/

/-- From `s` to `t` a part of an operation has run: what no instruction writes is as it was (R41, R64), and so are the
capture bytes that no read frame reaches (R216), and the trace has only grown (R12). -/
structure Ran (s t : State) : Prop extends Untouched s t where
  cap2 : t.rxcap[2] = s.rxcap[2]
  cap3 : t.rxcap[3] = s.rxcap[3]
  grows : s.trace <+: t.trace

theorem Ran.refl (s : State) : Ran s s := ⟨.refl s, rfl, rfl, List.prefix_rfl⟩

theorem Ran.trans {s t u : State} (a : Ran s t) (b : Ran t u) : Ran s u :=
  ⟨a.toUntouched.trans b.toUntouched, b.cap2.trans a.cap2, b.cap3.trans a.cap3, a.grows.trans b.grows⟩

theorem Moved.ran {s t : State} (h : Moved s t) : Ran s t := ⟨h.toUntouched, h.cap2, h.cap3, h.grows⟩

theorem Drew.ran {s t : State} (h : Drew s t) : Ran s t := h.1.ran

theorem finish_ran {s : State} {f : Flow} (h : Ran s f.state) : Ran s f.finish := by
  cases f with
  | on t => exact h.trans (moved_ret t).ran
  | off t => exact h

/-- Parts in order: enough that each part keeps what `Ran` names. For a written-out list, `simp` gives the parts in
turn and the `simp` lemmas below say it of each. -/
theorem inOrder_ran {os : List Op} (h : ∀ o ∈ os, Always Ran o) : Always Ran (inOrder os) :=
  Always.inOrder Ran.refl (fun _ _ _ => Ran.trans) h

/-! The parts that `Moved` does not describe: they write a pin, `ST` or `PSM`. -/

@[simp] theorem pinWrite_ran (p : Pin) (v : Bool) (s : State) : Ran s (pinWrite p v s) :=
  ⟨⟨rfl, rfl, rfl, rfl, rfl, rfl, rfl, rfl⟩, rfl, rfl, List.prefix_append _ _⟩

@[simp] theorem setStatus_ran (c : Status) (s : State) : Ran s (setStatus c s) :=
  ⟨⟨rfl, rfl, rfl, rfl, rfl, rfl, rfl, rfl⟩, rfl, rfl, List.prefix_append _ _⟩

@[simp] theorem setPsm_ran (q : Psm) (s : State) : Ran s (setPsm q s) :=
  ⟨⟨rfl, rfl, rfl, rfl, rfl, rfl, rfl, rfl⟩, rfl, rfl, List.prefix_rfl⟩

@[simp] theorem selectBand_ran (s : State) : Ran s (selectBand s) :=
  ⟨⟨rfl, rfl, rfl, rfl, rfl, rfl, rfl, rfl⟩, rfl, rfl, List.prefix_rfl⟩

/-! The parts that `Moved` describes, as `simp` uses them. -/

@[simp] theorem act_ran_iff {f : State → State} : Always Ran (act f) ↔ ∀ s, Ran s (f s) := Iff.rfl

@[simp] theorem delayMs_ran (n : Nat) (s : State) : Ran s (delayMs n s) := (moved_emit _ s).ran

@[simp] theorem setWork_ran (f : Work → Work) (s : State) : Ran s (setWork f s) := (moved_setWork f s).ran

@[simp] theorem busEnable_ran (s : State) : Ran s (busEnable s) := (moved_busEnable s).ran

@[simp] theorem busDisable_ran (s : State) : Ran s (busDisable s) := (moved_busDisable s).ran

@[simp] theorem idRead_ran : Always Ran idRead := fun s => (idRead_moved s).ran

@[simp] theorem regSelect_ran (a : Byte) : Always Ran (regSelect a) := fun s => (regSelect_moved a s).ran

@[simp] theorem regWrite_ran (a : Byte) (d : RegData → Byte) : Always Ran (regWrite a d) :=
  fun s => (regWrite_moved a d s).ran

@[simp] theorem regRead_ran (a : Byte) : Always Ran (regRead a) := fun s => (regRead_moved a s).ran

@[simp] theorem framePass_ran (v : Byte) : Always Ran (framePass v) := fun s => (framePass_drew v s).ran

/-! ## `power_off` and the fault path -/

/-- Discharge pulses append their events and write the discharge pin only (R160). -/
theorem Pulsed.ran {s t : State} {o : List Event} (h : Pulsed s t) (ht : Traced s t o) : Ran s t := by
  obtain ⟨evs, he, -⟩ := ht
  exact ⟨h.toUntouched, by rw [h.rxcap], by rw [h.rxcap], he ▸ List.prefix_append _ _⟩

theorem pulledDown_ran (s : State) : Ran s (pulledDown s) :=
  ((((pinWrite_ran _ _ s).trans (pinWrite_ran _ _ _)).trans (pinWrite_ran _ _ _)).trans (busDisable_ran _)).trans
    (pinWrite_ran _ _ _)

@[simp] theorem powerOff_ran (s : State) : Ran s (powerOff s) := by
  obtain ⟨t, ht, hp, -, htr⟩ := powerOff_pulses s
  rw [ht]
  exact ((pulledDown_ran s).trans (hp.ran htr)).trans (setPsm_ran _ t)

theorem raise_ran (c : Status) : Always Ran (raise c) := fun s =>
  (((setStatus_ran c s).trans (setPsm_ran _ _)).trans (powerOff_ran _)).trans (moved_ret _).ran

@[simp] theorem verify_ran (passes : State → Bool) (c : Status) : Always Ran (verify passes c) := by
  intro s
  cases h : passes s with
  | true => rw [verify_on c h]; exact Ran.refl s
  | false => rw [verify_off c h]; exact raise_ran c s

/-! ## BEGIN and END -/

@[simp] theorem beginStep3_ran : Always Ran beginStep3 := fun s => (waitWhileBusy_moved true _ s).ran

@[simp] theorem beginStep6_ran : Always Ran beginStep6 := by
  have select : Always Ran fun s => writeFramed s.profile.channelSelect s := fun s => (writeFramed_moved _ s).ran
  exact inOrder_ran (by simp [select])

theorem pumpAttempt_ran (i : Nat) : Always Ran (pumpAttempt i) := inOrder_ran (by simp)

@[simp] theorem pumpLoop_ran (attempts : List Nat) : Always Ran (pumpLoop attempts) := by
  induction attempts with
  | nil => exact Ran.refl
  | cons i rest ih =>
    intro s
    refine Always.andThen (r := Ran) (fun _ _ _ => Ran.trans) (pumpAttempt_ran i s) fun t => ?_
    split
    · exact Ran.refl t
    · exact ih t

/-- BEGIN, whichever of its steps it leaves by (R141). -/
theorem beginOp_ran : Always Ran beginOp := by
  have step1 : Always Ran beginStep1 := inOrder_ran (by simp)
  have step2 : Always Ran beginStep2 := inOrder_ran (by simp)
  have step4 : Always Ran beginStep4 := inOrder_ran (by simp)
  have step5 : Always Ran beginStep5 := inOrder_ran (by simp)
  have step7 : Always Ran beginStep7 := inOrder_ran (by simp)
  have step8 : Always Ran beginStep8 := inOrder_ran (by simp)
  exact inOrder_ran (by simp [step1, step2, step4, step5, step7, step8])

theorem endFlush_ran : Always Ran endFlush := by
  intro s
  unfold endFlush
  split
  · exact inOrder_ran (by simp) s
  · exact inOrder_ran (by simp) s

/-- END, whether or not its re-verification passes (R153). -/
theorem endOp_ran : Always Ran endOp := by
  have recheck : Always Ran endRecheck := inOrder_ran (by simp)
  have teardown : Always Ran endTeardown := inOrder_ran (by simp)
  exact inOrder_ran (by simp [endFlush_ran, recheck, teardown])

/-! ## Every instruction -/

/-- A command from its acceptance: what its operation keeps, it keeps (R83). -/
theorem Always.ranFromAccept {o : Op} (h : Always Ran o) (s : State) : Ran s (o (accept s)).finish :=
  (moved_accept s).ran.trans (finish_ran (h (accept s)))

/-- Every instruction answers a next state, and keeps what `Ran` names. -/
theorem exec_next_ran (i : Instr) (s : State) : ∃ t, exec i s = .next t ∧ Ran s t := by
  cases i with
  | beginCmd => exact ⟨_, rfl, beginOp_ran.ranFromAccept s⟩
  | endCmd => exact ⟨_, rfl, endOp_ran.ranFromAccept s⟩
  | setFactor => exact ⟨_, rfl, ((moved_accept s).ran.trans (selectBand_ran _)).trans (moved_ret _).ran⟩
  | frameFixed13 => exact ⟨_, rfl, Always.ranFromAccept (fun t => (sweepOp_drew _ _ t).ran) s⟩
  | frameData13 => exact ⟨_, rfl, Always.ranFromAccept (fun t => (sweepOp_drew _ _ t).ran) s⟩
  | frameStage2 => exact ⟨_, rfl, Always.ranFromAccept (fun t => (timedHalves_drew _ t).ran) s⟩
  | line => exact ⟨_, rfl, Always.ranFromAccept (fun t => (lineOp_drew _ t).ran) s⟩
  | wireSelect a => exact ⟨_, rfl, regSelect_ran a s⟩
  | wireWrite d more => exact ⟨_, rfl, (writeFramed_moved _ s).ran⟩
  | wireLineData b odd scan even => exact ⟨_, rfl, (writeFramed_moved _ s).ran⟩
  | wireIdRead i => exact ⟨_, rfl, (readFramed_moved (by simp) s).ran⟩
  | wireRegRead f => exact ⟨_, rfl, (readFramed_moved (by simp) s).ran⟩

theorem exec_ran {i : Instr} {s t : State} (h : exec i s = .next t) : Ran s t := by
  obtain ⟨u, hu, hr⟩ := exec_next_ran i s
  obtain rfl : u = t := by simpa using hu.symm.trans h
  exact hr

/-! ## The sequencer's turn -/

theorem sampleBusy_ran (polled : Bool) (s : State) : Ran s (Sequencer.sampleBusy polled s) := by
  cases polled with
  | true => exact ((moved_emit _ s).trans (moved_emit _ _)).ran
  | false => exact (moved_emit _ s).ran

/-- Taking a frame off the position and running it (R86 to R90). -/
theorem sendFrame_ran {frame : List Byte} {rest : List (List Byte)} {s t : State}
    (h : Sequencer.sendFrame frame rest s = .next t) : Ran s t := by
  have moved : Ran s { s with pos := .sending rest } :=
    ⟨⟨rfl, rfl, rfl, rfl, rfl, rfl, rfl, rfl⟩, rfl, rfl, List.prefix_rfl⟩
  unfold Sequencer.sendFrame at h
  split at h
  · exact moved.trans (exec_ran h)
  · cases h

/-- The sequencer going on from any position it holds (R28). -/
theorem goOn_ran {s t : State} (h : Sequencer.goOn s = .next t) : Ran s t := by
  unfold Sequencer.goOn at h
  split at h
  case h_1 => cases h; exact (moved_ret s).ran
  case h_2 polled _ => cases h; exact sampleBusy_ran polled s
  case h_3 todo _ => cases h; exact finish_ran (resumeTimed_drew todo s).ran
  case h_4 block _ => cases h; exact finish_ran (zeroStepRound_drew block s).ran
  case h_5 => cases h; exact (moved_ret s).ran
  case h_6 => exact sendFrame_ran h

theorem turn_ran {s t : State} (h : Sequencer.turn s = .next t) : Ran s t := by
  unfold Sequencer.turn at h
  split at h
  · exact goOn_ran h
  · cases h; exact Ran.refl s

/-! ## The host's actions, and a step -/

/-- What every step keeps, a host action and a reset among them: the configuration and the environment's answers
(R41, R9), and the events there were, in place and in order (R12, R70). -/
structure Kept (s t : State) : Prop where
  par : t.par = s.par
  env : t.env = s.env
  grows : s.trace <+: t.trace

theorem Ran.kept {s t : State} (h : Ran s t) : Kept s t := ⟨h.par, h.env, h.grows⟩

/-- An update that writes none of the three. -/
theorem kept_of_eq {s t : State} (hp : t.par = s.par) (he : t.env = s.env) (ht : t.trace = s.trace) : Kept s t :=
  ⟨hp, he, ht ▸ List.prefix_rfl⟩

theorem writeCmd_kept {w : Word} {s t : State} (h : HostPort.writeCmd w s = .next t) : Kept s t := by
  unfold HostPort.writeCmd at h
  split at h
  · cases h; exact (Ran.refl s).kept
  · split at h
    · exact (exec_ran h).kept
    · cases h; exact (Ran.refl s).kept

theorem write_kept {width offset : Nat} {v : Word} {s t : State} (h : HostPort.write width offset v s = .next t) :
    Kept s t := by
  unfold HostPort.write at h
  split at h
  · split at h
    · exact writeCmd_kept h
    · cases h; exact kept_of_eq rfl rfl rfl
  · cases h

theorem read_kept {width offset : Nat} {s t : State} (h : HostPort.read width offset s = .next t) : Kept s t := by
  unfold HostPort.read at h
  split at h
  · cases h; exact kept_of_eq rfl rfl rfl
  · cases h

theorem poke_kept {addr : Nat} {v : Byte} {s t : State} (h : HostPort.poke addr v s = .next t) : Kept s t := by
  unfold HostPort.poke at h
  split at h
  · cases h
  · split at h
    · cases h; exact kept_of_eq rfl rfl rfl
    · cases h

theorem reset_kept {s t : State} (h : HostPort.reset s = .next t) : Kept s t := by
  unfold HostPort.reset at h
  split at h
  · cases h; exact kept_of_eq rfl rfl rfl
  · cases h

theorem perform_kept {a : HostAct} {s t : State} (h : HostPort.perform a s = .next t) : Kept s t := by
  cases a with
  | write width offset v => exact write_kept h
  | read width offset => exact read_kept h
  | wait => exact read_kept (width := 32) (offset := 0x04) h
  | poke addr v => exact poke_kept h
  | strap code => cases h; exact kept_of_eq rfl rfl rfl
  | reset => exact reset_kept h

/-- An action taken off the queue keeps what the action itself keeps: the queue is none of the three. -/
theorem stepAct_kept {a : HostAct} {rest : List HostAct} {s t : State} (h : stepAct a rest s = .next t) :
    Kept s t := by
  unfold stepAct at h
  split at h
  · exact (turn_ran h).kept
  · obtain ⟨hpar, henv, hgrows⟩ := perform_kept h
    exact ⟨hpar, henv, hgrows⟩

theorem step_kept {s t : State} (h : step s = .next t) : Kept s t := by
  unfold step at h
  split at h
  · exact (turn_ran h).kept
  · exact stepAct_kept h

/-- Settles O58: the sequencer's turn and every instruction only append events, and a host action that is no command
appends none. -/
theorem traceOnlyGrows : Obligations.TraceOnlyGrows := fun _ _ h => (step_kept h).grows

end Sys2Proof.Machine

/-! How a part of an operation leaves the machine (`Ends`): with one assertion when it goes on and another when it
leaves the written order; and from it, that every step keeps the invariant. -/

namespace Sys2Proof.Machine

/-! ## Assertions before and after a part of an operation -/

/-- `Q` holds where the flow goes on, `H` where it has left the written order. -/
def Flow.Meets (H Q : State → Prop) : Flow → Prop
  | .on t => Q t
  | .off t => H t

/-- From every state with `P` the part goes on to one with `Q`, or leaves the written order in one with `H`. -/
def Ends (H P : State → Prop) (o : Op) (Q : State → Prop) : Prop := ∀ s, P s → (o s).Meets H Q

section
variable {H P P' Q Q' R : State → Prop} {o : Op}

@[simp] theorem Flow.meets_on {s : State} : (Flow.on s).Meets H Q ↔ Q s := Iff.rfl
@[simp] theorem Flow.meets_off {s : State} : (Flow.off s).Meets H Q ↔ H s := Iff.rfl

theorem Flow.Meets.andThen {f : Flow} {k : Op} (h : f.Meets H Q) (hk : Ends H Q k R) : (f.andThen k).Meets H R := by
  cases f with
  | on t => exact hk t h
  | off t => exact h

/-- An operation that goes on to its end returns. -/
theorem Flow.Meets.finish {f : Flow} (h : f.Meets H Q) (hq : ∀ t, Q t → H (ret t)) : H f.finish := by
  cases f with
  | on t => exact hq t h
  | off t => exact h

theorem Ends.mono (h : Ends H P o Q) (hp : ∀ s, P' s → P s) (hq : ∀ s, Q s → Q' s) : Ends H P' o Q' := by
  intro s hs
  have := h s (hp s hs)
  revert this
  cases o s with
  | on t => exact hq t
  | off t => exact id

theorem ends_act_iff {f : State → State} : Ends H P (act f) Q ↔ ∀ s, P s → Q (f s) := Iff.rfl

theorem Ends.act {f : State → State} (h : ∀ s, P s → Q (f s)) : Ends H P (act f) Q := ends_act_iff.mpr h

theorem Ends.nil : Ends H P (inOrder []) P := fun _ hs => hs

theorem Ends.cons {rest : List Op} (h : Ends H P o Q) (hr : Ends H Q (inOrder rest) R) :
    Ends H P (inOrder (o :: rest)) R := fun s hs => (h s hs).andThen hr

theorem Ends.inOrder {os : List Op} (h : ∀ o ∈ os, Ends H P o P) : Ends H P (inOrder os) P := by
  induction os with
  | nil => exact .nil
  | cons o rest ih => exact .cons (h o (by simp)) (ih fun o' ho => h o' (by simp [ho]))

theorem Ends.forEach {α : Type} {f : α → Op} {xs : List α} (h : ∀ x, Ends H P (f x) P) :
    Ends H P (forEach f xs) P := by
  induction xs with
  | nil => exact fun _ hs => hs
  | cons x rest ih => exact fun s hs => (h x s hs).andThen ih

end

/-! ## What the framing engine, a LINE and a verification carry along -/

/-- `P` is an assertion that no part of an operation spoils which `Moved` describes, and what leaves the written order
from `P`, in a wait that never ends or by the fault path, meets `H`. -/
structure Carries (H P : State → Prop) : Prop where
  moved : ∀ {s t}, Moved s t → P s → P t
  waits : ∀ {t polled}, P t → t.run = true → t.pos = .busyWait polled → H t
  raises : ∀ {c s}, P s → H (ret (powerOff (setPsm .faulted (setStatus c s))))

namespace Carries

section
variable {H P : State → Prop} (c : Carries H P)
include c

theorem act {f : State → State} (h : ∀ s, Moved s (f s)) : Ends H P (act f) P := fun s => c.moved (h s)

theorem waitWhileBusy (polled : Bool) (gap : List Event) : Ends H P (waitWhileBusy polled gap) P := by
  intro s hs
  have hm := c.moved (waitWhileBusy_moved polled gap s) hs
  cases hw : s.env.waitAt s.waitSeen with
  | some k => rw [waitWhileBusy_ends hw] at hm ⊢; exact hm
  | none => rw [waitWhileBusy_hangs hw] at hm ⊢; exact c.waits hm rfl rfl

theorem xferW (b : Byte) : Ends H P (xferW b) P := fun s hs =>
  c.waitWhileBusy false [] (xfer b s) (c.moved (moved_xfer b s) hs)

/-- A write frame carries `P` along and raises CS last (R215). -/
theorem writeFramed_cs (bytes : List Byte) : Ends H P (writeFramed bytes) fun t => P t ∧ t.pins.cs = true :=
  .cons (c.act (moved_cs false)) <| .cons (.forEach c.xferW) <|
    .cons (.act fun s hs => ⟨c.moved (moved_cs true s) hs, rfl⟩) .nil

theorem writeFramed (bytes : List Byte) : Ends H P (writeFramed bytes) P :=
  (c.writeFramed_cs bytes).mono (fun _ => id) fun _ => And.left

/-- A read frame of two bytes: both are captured where `Moved` says nothing (R216). -/
theorem readFramed (x y : Byte) : Ends H P (readFramed [x, y]) P := by
  have captured (b : Byte) {k : Nat} (hk : k < 2) : Ends H P (inOrder [Machine.xferW b, Machine.act (capture k)]) P :=
    .cons (c.xferW b) <| .cons (c.act (moved_capture hk)) .nil
  have both : Ends H P (inOrder [inOrder [Machine.xferW x, Machine.act (capture 0)],
      inOrder [Machine.xferW y, Machine.act (capture 1)]]) P :=
    .cons (captured x (by omega)) <| .cons (captured y (by omega)) .nil
  exact .cons (c.act (moved_cs false)) <| .cons both <| .cons (c.act (moved_cs true)) .nil

theorem regSelect (a : Byte) : Ends H P (regSelect a) P :=
  .cons (c.writeFramed _) <| .cons (c.act (moved_noteSelect a)) .nil

/-- A register write carries `P` along and raises CS last (R219). -/
theorem regWrite_cs (a : Byte) (d : RegData → Byte) : Ends H P (regWrite a d) fun t => P t ∧ t.pins.cs = true :=
  fun s => Ends.cons (c.regSelect a) (.cons (c.writeFramed_cs [Config.cmdWrite, d s.par.v]) .nil) s

theorem regWrite (a : Byte) (d : RegData → Byte) : Ends H P (regWrite a d) P :=
  (c.regWrite_cs a d).mono (fun _ => id) fun _ => And.left

theorem regRead (a : Byte) : Ends H P (regRead a) P :=
  fun s => Ends.cons (c.regSelect a) (.cons (c.readFramed Config.cmdReadRsp s.par.rdFill) .nil) s

theorem idRead : Ends H P idRead P := fun s => c.readFramed Config.cmdReadReq s.par.idArg s

theorem setByte (b : Nat) : Ends H P (setByte b) P := c.act (moved_setWork _)

theorem pixelByte (a : LineArgs) (enc : Byte → Stage → Byte) (off : Nat) : Ends H P (pixelByte a enc off) P := by
  intro s hs
  unfold Machine.pixelByte
  split
  · exact c.xferW _ _ (c.moved (moved_emit _ s) hs)
  · exact c.xferW _ s hs

theorem lineFrame (a : LineArgs) : Ends H P (lineFrame a) P := by
  have pixels (enc : Byte → Stage → Byte) (count : Nat → Nat) (xs : List Nat) :
      Ends H P (forEach (fun off => inOrder [Machine.setByte (count off), Machine.pixelByte a enc off]) xs) P :=
    .forEach fun off => .cons (c.setByte _) <| .cons (c.pixelByte a enc off) .nil
  have scans (byte : Nat → Byte) (xs : List Nat) :
      Ends H P (forEach (fun b => inOrder [Machine.setByte b, Machine.xferW (byte b)]) xs) P :=
    .forEach fun b => .cons (c.setByte b) <| .cons (c.xferW _) .nil
  exact .cons (c.act (moved_cs false)) <| .cons (c.xferW _) <| .cons (c.xferW _) <|
    .cons (fun s => pixels odd (· + 1) _ s) <| .cons (c.act fun s => moved_setWork _ s) <|
    .cons (fun s => scans _ _ s) <| .cons (fun s => pixels even id _ s) <| .cons (c.act (moved_cs true)) .nil

/-- A LINE carries `P` along; it ends with CS up and the bus off (R171). -/
theorem lineOp_cs (a : LineArgs) :
    Ends H P (lineOp a) fun t => P t ∧ t.pins.cs = true ∧ t.busEn = false :=
  .cons (c.act moved_busEnable) <| .cons (c.regSelect _) <| .cons (c.lineFrame a) <| .cons (c.regWrite_cs _ _) <|
    .cons (.act fun s ⟨hs, hcs⟩ =>
      ⟨c.moved (moved_busDisable s) hs, (busDisable_pins s).symm ▸ hcs, busDisable_busEn s⟩) .nil

theorem lineOp (a : LineArgs) : Ends H P (lineOp a) P :=
  (c.lineOp_cs a).mono (fun _ => id) fun _ => And.left

theorem framePass (v : Byte) : Ends H P (framePass v) P := fun s =>
  Ends.forEach (fun _ => .cons (c.act (moved_setWork _)) <| .cons (c.lineOp _) .nil) s

theorem verify (passes : State → Bool) (code : Status) : Ends H P (verify passes code) P := by
  intro s hs
  cases h : passes s with
  | true => rw [verify_on code h]; exact hs
  | false => rw [verify_off code h]; exact c.raises hs

theorem delayMs (n : Nat) : Ends H P (Machine.act (Machine.delayMs n)) P := c.act (moved_emit _)

/-! The parts of BEGIN and END that write no pin but CS. -/

theorem beginStep3 : Ends H P beginStep3 P := fun s => c.waitWhileBusy true _ s

theorem beginStep4 : Ends H P beginStep4 P := .cons c.idRead <| .cons c.idRead <| .cons (c.verify _ _) .nil

theorem beginStep5 : Ends H P beginStep5 P :=
  .cons (c.regWrite _ _) <| .cons (c.regRead _) <| .cons (c.verify _ _) .nil

theorem beginStep6 : Ends H P beginStep6 P :=
  .cons (c.regWrite _ _) <| .cons (c.regSelect _) <| .cons (fun s => c.writeFramed _ s) <|
    .inOrder (by simp [c.regWrite])

theorem pumpAttempt (i : Nat) : Ends H P (pumpAttempt i) P :=
  .cons (c.act (moved_setWork _)) <| .cons (c.regWrite _ _) <| .cons (c.delayMs _) <|
    .cons (c.regWrite _ _) <| .cons (c.delayMs _) <| .cons (c.regWrite _ _) <| .cons (c.delayMs _) <|
    .cons (c.regRead _) <| .cons (c.act fun s => moved_setWork _ s) .nil

theorem pumpLoop (attempts : List Nat) : Ends H P (pumpLoop attempts) P := by
  induction attempts with
  | nil => exact fun _ hs => hs
  | cons i rest ih =>
    intro s hs
    refine (c.pumpAttempt i s hs).andThen fun t ht => ?_
    split
    · exact ht
    · exact ih t ht

theorem beginStep7 : Ends H P beginStep7 P :=
  .cons (c.act (moved_setWork _)) <| .cons (c.pumpLoop _) <| .cons (c.verify _ _) .nil

theorem endRecheck : Ends H P endRecheck P :=
  .cons (c.act moved_busEnable) <| .cons (c.regRead _) <| .cons (c.verify _ _) .nil

theorem endTeardown : Ends H P endTeardown P := .inOrder (by simp [c.regWrite, c.delayMs])

/-- END's flush, for an assertion that a write of the border pin does not spoil (R154). -/
theorem endFlush (hb : ∀ s v, P s → P (pinWrite .border v s)) : Ends H P endFlush P := by
  have border (v : Bool) : Ends H P (Machine.act (pinWrite .border v)) P := .act fun s hs => hb s v hs
  intro s hs
  unfold Machine.endFlush
  split
  · exact Ends.inOrder (by simp [c.delayMs, border]) s hs
  · exact Ends.inOrder (by simp [c.delayMs, c.framePass]) s hs

end

end Carries

/-! ## `power_off` -/

/-- `power_off` leaves every pin low, the bus off and `PSM` powered down (R160, R161). -/
theorem powerOff_leaves (s : State) :
    (powerOff s).pins = Pins.low ∧ (powerOff s).busEn = false ∧ (powerOff s).psm = .poweredDown := by
  obtain ⟨t, ht, hp, hpins, -⟩ := powerOff_pulses s
  have hbus : (pulledDown s).busEn = false := by simp [pulledDown]
  rw [ht]
  refine ⟨?_, hp.busEn.trans hbus, rfl⟩
  rw [setPsm_pins, hpins]
  simp [pulledDown, Pins.set, Pins.low]

/-- `power_off` does not write `TOFF` (R25). -/
theorem powerOff_toff (s : State) : (powerOff s).toff = s.toff := by
  obtain ⟨t, ht, hp, -⟩ := powerOff_pulses s
  rw [ht, setPsm_toff, hp.toff]
  simp [pulledDown]

/-- The pins, level by level. -/
theorem Pins.eq_mk {q : Pins} {a b c d e : Bool} (ha : q.reset = a) (hb : q.panelOn = b) (hc : q.discharge = c)
    (hd : q.border = d) (he : q.cs = e) : q = ⟨a, b, c, d, e⟩ := by
  subst ha hb hc hd he
  rfl

/-! ## The invariant, apart from the frame buffer -/

/-- What the invariant says of a state between two lines (R140, R144, R161, R213, R249). -/
structure BetweenLines (s : State) : Prop where
  busOff : s.busEn = false
  settled : s.psm.settled
  readyPins : s.psm = .ready → s.pins = Pins.powered
  downPins : s.psm ≠ .ready →
    s.pins.reset = false ∧ s.pins.panelOn = false ∧ s.pins.discharge = false ∧ s.pins.border = false

/-- The invariant but for the frame buffer, which no instruction writes. -/
structure Standing (s : State) : Prop where
  runPos : s.run = false ↔ s.pos = .idle
  notSending : ∀ fs, s.pos ≠ .sending fs
  between : s.pos.between = true → BetweenLines s

theorem inv_iff {s : State} : Inv s ↔ Standing s ∧ s.mem.wf := by
  constructor
  · intro h
    exact ⟨⟨h.runPos, h.notSending, fun hb => ⟨h.busOff hb, h.psmSettled hb, h.readyPins hb, h.downPins hb⟩⟩,
      h.memWf⟩
  · rintro ⟨⟨hrun, hsend, hb⟩, hmem⟩
    exact ⟨hrun, hsend, fun h => (hb h).busOff, fun h => (hb h).settled, fun h => (hb h).readyPins,
      fun h => (hb h).downPins, hmem⟩

/-- An update of none of the fields `BetweenLines` names. -/
theorem BetweenLines.of_eq {s t : State} (h : BetweenLines s) (hb : t.busEn = s.busEn) (hq : t.psm = s.psm)
    (hp : t.pins = s.pins) : BetweenLines t := by
  obtain ⟨h1, h2, h3, h4⟩ := h
  constructor
  · rwa [hb]
  · rwa [hq]
  · rwa [hq, hp]
  · rwa [hq, hp]

/-- A powered-down panel with the bus off is between lines. -/
theorem betweenLines_powerOff (s : State) : BetweenLines (powerOff s) := by
  obtain ⟨hpins, hbus, hpsm⟩ := powerOff_leaves s
  refine ⟨hbus, Or.inr (Or.inr hpsm), fun h => ?_, fun _ => ?_⟩
  · rw [hpsm] at h
    cases h
  · rw [hpins]
    exact ⟨rfl, rfl, rfl, rfl⟩

/-- A LINE ends between lines where it began there: of the pins it has written CS only, and CS is up (R171, R182). -/
theorem BetweenLines.line {s t : State} (h : BetweenLines s) (m : Moved s t) (hcs : t.pins.cs = true)
    (hbus : t.busEn = false) : BetweenLines t := by
  refine ⟨hbus, ?_, fun hr => ?_, fun hr => ?_⟩
  · rw [m.psm]
    exact h.settled
  · have hp := h.readyPins (m.psm ▸ hr)
    rw [Pins.eq_mk m.reset m.panelOn m.discharge m.border hcs, hp]
    rfl
  · rw [m.reset, m.panelOn, m.discharge, m.border]
    exact h.downPins (m.psm ▸ hr)

/-- An operation that returns between lines stands there idle (R83, R249). -/
theorem BetweenLines.ret {s : State} (h : BetweenLines s) : Standing (ret s) :=
  ⟨iff_of_true rfl rfl, fun _ => Pos.noConfusion, fun _ => h.of_eq rfl rfl rfl⟩

/-- A loop without an end that a step leaves between lines (R203, R262). -/
theorem BetweenLines.stop {s : State} (h : BetweenLines s) {p : Pos} (hi : p ≠ .idle)
    (hs : ∀ fs, p ≠ .sending fs) : Standing { s with run := true, pos := p } :=
  ⟨⟨fun hr => Bool.noConfusion hr, fun hp => absurd hp hi⟩, hs, fun _ => h.of_eq rfl rfl rfl⟩

/-- In a wait that never ends nothing is asked of the pins, the bus and `PSM` (R261). -/
theorem standing_of_busyWait {s : State} {polled : Bool} (hr : s.run = true) (hp : s.pos = .busyWait polled) :
    Standing s := by
  refine ⟨?_, fun fs => ?_, fun hb => ?_⟩
  · simp [hr, hp]
  · simp [hp]
  · simp [hp, Pos.between] at hb

/-- An assertion that `Moved` keeps is carried along, and what leaves the written order from it stands. -/
theorem carries_standing {P : State → Prop} (h : ∀ {s t}, Moved s t → P s → P t) : Carries Standing P where
  moved := h
  waits := fun _ => standing_of_busyWait
  raises := fun _ => (betweenLines_powerOff _).ret

/-! ## The pixel operations keep to between lines -/

theorem lineOp_betweenLines (a : LineArgs) : Ends Standing BetweenLines (lineOp a) BetweenLines := by
  intro s hs
  have c : Carries Standing (Moved s) := carries_standing fun h h' => h'.trans h
  exact (c.lineOp_cs a).mono (fun _ => id) (fun t ⟨m, hcs, hbus⟩ => hs.line m hcs hbus) s (.refl s)

/-- A part that writes working registers, the counters and the trace only. -/
theorem act_betweenLines {f : State → State} (hb : ∀ s, (f s).busEn = s.busEn) (hq : ∀ s, (f s).psm = s.psm)
    (hp : ∀ s, (f s).pins = s.pins) : Ends Standing BetweenLines (act f) BetweenLines :=
  .act fun s h => h.of_eq (hb s) (hq s) (hp s)

theorem setWork_betweenLines (f : Work → Work) : Ends Standing BetweenLines (act (setWork f)) BetweenLines :=
  act_betweenLines (fun _ => rfl) (fun _ => rfl) fun _ => rfl

theorem framePass_betweenLines (v : Byte) : Ends Standing BetweenLines (framePass v) BetweenLines := fun s =>
  Ends.forEach (fun _ => .cons (setWork_betweenLines _) <| .cons (lineOp_betweenLines _) .nil) s

theorem timedPass_betweenLines (v : Byte) : Ends Standing BetweenLines (timedPass v) BetweenLines := by
  have clock (f : Nat → Work → Work) : Ends Standing BetweenLines (act (nowMs f)) BetweenLines :=
    act_betweenLines (fun _ => rfl) (fun _ => rfl) fun _ => rfl
  exact .cons (clock _) <| .cons (framePass_betweenLines v) <| .cons (clock _) <|
    .cons (act_betweenLines (fun _ => rfl) (fun _ => rfl) fun _ => rfl) .nil

theorem timedLoop_betweenLines (todo : List (Byte × Nat)) (v : Byte) (minMs fuel : Nat) :
    Ends Standing BetweenLines (timedLoop (.timed todo) v minMs fuel) BetweenLines := by
  induction fuel with
  | zero => exact fun s hs => hs.stop (by simp) (by simp)
  | succ fuel ih =>
    refine fun s hs => (timedPass_betweenLines v s hs).andThen fun t ht => ?_
    split
    · exact ht
    · exact ih t ht

theorem timedHalves_betweenLines (todo : List (Byte × Nat)) :
    Ends Standing BetweenLines (timedHalves todo) BetweenLines := by
  induction todo with
  | nil => exact fun _ hs => hs
  | cons half rest ih =>
    intro s hs
    exact (timedLoop_betweenLines _ half.1 half.2 _ (clearAcc s) (hs.of_eq rfl rfl rfl)).andThen ih

theorem resumeTimed_betweenLines (todo : List (Byte × Nat)) :
    Ends Standing BetweenLines (resumeTimed todo) BetweenLines := by
  cases todo with
  | nil => exact fun _ hs => hs
  | cons half rest =>
    exact fun s hs => (timedLoop_betweenLines _ half.1 half.2 _ s hs).andThen (timedHalves_betweenLines rest)

theorem visitOp_betweenLines (real : Nat → LineArgs) (border : Byte) (rep total : Nat) (q : Spot) :
    Ends Standing BetweenLines (visitOp real border rep total q) BetweenLines :=
  .cons (setWork_betweenLines _) <| .cons (lineOp_betweenLines _) .nil

theorem zeroStepRound_betweenLines (block : Nat) :
    Ends Standing BetweenLines (zeroStepRound block) BetweenLines := fun s hs =>
  (Ends.forEach (fun _ => visitOp_betweenLines _ _ _ _ _) s hs).andThen fun _ ht => ht.stop (by simp) (by simp)

theorem sweepOp_betweenLines (q : SweepParams) (real : Nat → LineArgs) :
    Ends Standing BetweenLines (sweepOp q real) BetweenLines := by
  intro s hs
  unfold sweepOp
  split
  · exact zeroStepRound_betweenLines _ s hs
  · split
    · exact hs
    · exact Ends.forEach (visitOp_betweenLines _ _ _ _) s hs

/-! ## BEGIN and END -/

/-- The pins of a panel that BEGIN has powered, but for CS, which frames move (R143). -/
structure PinsUp (s : State) : Prop where
  reset : s.pins.reset = true
  panelOn : s.pins.panelOn = true
  discharge : s.pins.discharge = false
  border : s.pins.border = true

theorem PinsUp.moved {s t : State} (m : Moved s t) (h : PinsUp s) : PinsUp t :=
  ⟨m.reset.trans h.reset, m.panelOn.trans h.panelOn, m.discharge.trans h.discharge, m.border.trans h.border⟩

/-- With CS up they are the powered pins (R144). -/
theorem PinsUp.powered {s : State} (h : PinsUp s) (hcs : s.pins.cs = true) : s.pins = Pins.powered :=
  Pins.eq_mk h.reset h.panelOn h.discharge h.border hcs

/-- BEGIN's first step goes on with every pin low, whatever the pins were (R142). -/
theorem beginStep1_pins (s : State) : (beginStep1 s).Meets Standing fun t => t.pins = Pins.low := by
  simp [beginStep1, Pins.set, Pins.low]

/-- BEGIN's second step powers the panel (R143). -/
theorem beginStep2_pins : Ends Standing (fun s => s.pins = Pins.low) beginStep2 PinsUp := by
  intro s hs
  simp only [beginStep2, inOrder_cons, inOrder_nil, act_apply, Flow.andThen_on, Flow.meets_on]
  constructor <;> simp [hs, Pins.low]

/-- BEGIN that goes on to its end leaves the panel powered and between lines; where it stops before, in a wait or by the
fault path, it stands (R141, R144, R152). -/
theorem beginOp_betweenLines : Ends Standing (fun _ => True) beginOp BetweenLines := by
  have up : Carries Standing PinsUp := carries_standing PinsUp.moved
  have step8 : Ends Standing PinsUp beginStep8 fun t => (PinsUp t ∧ t.pins.cs = true) ∧ t.busEn = false :=
    .cons (up.regWrite_cs _ _) <|
      .cons (.act fun s ⟨hup, hcs⟩ => ⟨⟨up.moved (moved_busDisable s) hup, (busDisable_pins s).symm ▸ hcs⟩,
        busDisable_busEn s⟩) .nil
  refine .cons (Q := fun _ => True) (.act fun _ => id) <| .cons (Q := fun _ => True) (.act fun _ => id) <|
    .cons (fun s _ => beginStep1_pins s) <| .cons beginStep2_pins <| .cons up.beginStep3 <|
    .cons (.act fun s h => ⟨h.reset, h.panelOn, h.discharge, h.border⟩) <|
    .cons up.beginStep4 <| .cons up.beginStep5 <| .cons up.beginStep6 <| .cons up.beginStep7 <| .cons step8 <|
    .cons (.act fun s ⟨⟨hup, hcs⟩, hbus⟩ => ?_) .nil
  exact ⟨hbus, Or.inr (Or.inl rfl), fun _ => hup.powered hcs, fun h => absurd rfl h⟩

/-- END that goes on to its end has powered down; where it stops before, it stands (R153). -/
theorem endOp_betweenLines : Ends Standing (fun _ => True) endOp BetweenLines := by
  have c : Carries Standing fun _ => True := carries_standing fun _ => id
  exact .cons (c.endFlush fun _ _ => id) <| .cons c.endRecheck <| .cons c.endTeardown <|
    .cons (.act fun s _ => betweenLines_powerOff s) .nil

/-! ## Every command -/

/-- A command word decodes to none of the wire frames (R82, R83). -/
theorem decodeCmd_ok {w : Word} {i : Instr} (h : decodeCmd w = .ok i) :
    i ∈ [Instr.beginCmd, .endCmd, .setFactor, .frameFixed13, .frameData13, .frameStage2, .line] := by
  unfold decodeCmd at h
  split at h
  · cases h
  · split at h <;> cases h <;> decide

/-- An operation that goes on to its end between lines, from the acceptance of its command. -/
theorem Ends.standing {P : State → Prop} {o : Op} (h : Ends Standing P o BetweenLines) {s : State}
    (hs : P (accept s)) : Standing (o (accept s)).finish :=
  (h (accept s) hs).finish fun _ => BetweenLines.ret

/-- A command that is run between lines leaves a state that stands (R28, R249). -/
theorem exec_standing {w : Word} {i : Instr} {s t : State} (hi : decodeCmd w = .ok i) (hs : BetweenLines s)
    (h : exec i s = .next t) : Standing t := by
  have hi := decodeCmd_ok hi
  have ha : BetweenLines (accept s) := hs.of_eq rfl rfl rfl
  cases i with
  | beginCmd => cases h; exact beginOp_betweenLines.standing trivial
  | endCmd => cases h; exact endOp_betweenLines.standing trivial
  | setFactor => cases h; exact (ha.of_eq (t := selectBand (accept s)) rfl rfl rfl).ret
  | frameFixed13 => cases h; exact (sweepOp_betweenLines _ _).standing ha
  | frameData13 => cases h; exact (sweepOp_betweenLines _ _).standing ha
  | frameStage2 => cases h; exact (timedHalves_betweenLines _).standing ha
  | line => cases h; exact (lineOp_betweenLines _).standing ha
  | wireSelect | wireWrite | wireLineData | wireIdRead | wireRegRead => simp at hi

/-! ## What a host action and a step can do -/

/-- What a reset writes, where the profile table is sound (R250). -/
theorem reset_next {s t : State} (h : HostPort.reset s = .next t) :
    t = { s with
      size := resolveSize s.sizeSel
      toff := bandOffset Config.defaultTemp
      st := .ok
      run := false
      args := Args.zero
      psm := .uninitialized
      pins := Pins.low
      busEn := false
      pos := .idle
      work := Work.zero
      rxcap := Vector.replicate 4 0#8 } := by
  unfold HostPort.reset at h
  split at h
  · cases h; rfl
  · cases h

/-- What a host action that is performed can do: run a command or leave it ignored, store an argument, return a value on
the port, fill a byte, set the strap, or reset (R22 to R24, R35, R61, R83, R84, R250). -/
inductive Performs (s : State) : HostAct → State → Prop
  | command {w : Word} {i : Instr} {t : State} (hr : s.run = false) (hi : decodeCmd w = .ok i)
      (h : exec i s = .next t) : Performs s (.write 32 0 w) t
  | ignored {w : Word} (h : s.run = true ∨ ∃ e, decodeCmd w = .error e) : Performs s (.write 32 0 w) s
  | stored {offset : Nat} (v : Word) (ha : offset % 4 = 0) (h0 : offset ≠ 0) :
      Performs s (.write 32 offset v) { s with args := HostPort.writeArg s.args offset v }
  | returned {offset : Nat} (ha : offset % 4 = 0) :
      Performs s (.read 32 offset) { s with hostRd := HostPort.readReg s offset }
  | polled : Performs s .wait { s with hostRd := HostPort.readReg s 0x04 }
  | filled {addr : Nat} (v : Byte) (hr : s.run = false) (ha : addr < 2 ^ s.par.addrBits) :
      Performs s (.poke addr v) { s with mem := s.mem.store addr v }
  | strapped (code : Byte) : Performs s (.strap code) { s with sizeSel := code }
  | reset {t : State} (h : HostPort.reset s = .next t) : Performs s .reset t

theorem accessOk_iff {width offset : Nat} :
    HostPort.accessOk width offset = true ↔ width = 32 ∧ offset % 4 = 0 := by
  simp [HostPort.accessOk]

/-- A write at the port: refused, or of `CMD`, or of another register. -/
theorem write_eq (width offset : Nat) (v : Word) (s : State) :
    HostPort.write width offset v s =
      if width = 32 ∧ offset % 4 = 0 then
        if offset = 0 then HostPort.writeCmd v s else .next { s with args := HostPort.writeArg s.args offset v }
      else .refused (.hostAccess width offset) := by
  simp only [HostPort.write, accessOk_iff]

/-- A read at the port: refused, or the value of the register. -/
theorem read_eq (width offset : Nat) (s : State) :
    HostPort.read width offset s =
      if width = 32 ∧ offset % 4 = 0 then .next { s with hostRd := HostPort.readReg s offset }
      else .refused (.hostAccess width offset) := by
  simp only [HostPort.read, accessOk_iff]

theorem writeCmd_performs {w : Word} {s t : State} (h : HostPort.writeCmd w s = .next t) :
    Performs s (.write 32 0 w) t := by
  unfold HostPort.writeCmd at h
  split at h
  case isTrue hr => cases h; exact .ignored (.inl hr)
  case isFalse hr =>
    split at h
    case h_1 i hi => exact .command (by simpa using hr) hi h
    case h_2 e he => cases h; exact .ignored (.inr ⟨e, he⟩)

theorem write_performs {width offset : Nat} {v : Word} {s t : State} (h : HostPort.write width offset v s = .next t) :
    Performs s (.write width offset v) t := by
  rw [write_eq] at h
  split at h
  case isTrue hok =>
    obtain ⟨rfl, ha⟩ := hok
    split at h
    case isTrue h0 => subst h0; exact writeCmd_performs h
    case isFalse h0 => cases h; exact .stored v ha h0
  case isFalse => cases h

theorem read_performs {width offset : Nat} {s t : State} (h : HostPort.read width offset s = .next t) :
    Performs s (.read width offset) t := by
  rw [read_eq] at h
  split at h
  case isTrue hok =>
    obtain ⟨rfl, ha⟩ := hok
    cases h
    exact .returned ha
  case isFalse => cases h

theorem poke_performs {addr : Nat} {v : Byte} {s t : State} (h : HostPort.poke addr v s = .next t) :
    Performs s (.poke addr v) t := by
  unfold HostPort.poke at h
  split at h
  case isTrue => cases h
  case isFalse hr =>
    split at h
    case isTrue ha => cases h; exact .filled v (by simpa using hr) ha
    case isFalse => cases h

theorem perform_performs {a : HostAct} {s t : State} (h : HostPort.perform a s = .next t) : Performs s a t := by
  cases a with
  | write width offset v => exact write_performs h
  | read width offset => exact read_performs h
  | wait => cases h; exact .polled
  | poke addr v => exact poke_performs h
  | strap code => cases h; exact .strapped code
  | reset => exact .reset h

/-- A step is the sequencer's turn, or the host's next action (R28, R70, R102). -/
theorem step_cases {s t : State} (h : step s = .next t) :
    Sequencer.turn s = .next t ∨ ∃ a rest, s.hostQ = a :: rest ∧ Performs { s with hostQ := rest } a t := by
  unfold step at h
  split at h
  · exact .inl h
  · rename_i a rest hq
    unfold stepAct at h
    split at h
    · exact .inl h
    · exact .inr ⟨a, rest, hq, perform_performs h⟩

/-! ## Every step keeps the invariant -/

/-- The sequencer going on from a position that stands: in a wait, in a timed loop, or in a sweep whose step is 0. -/
theorem goOn_standing {s t : State} (hs : Standing s) (hr : s.run = true) (h : Sequencer.goOn s = .next t) :
    Standing t := by
  have between {p : Pos} (hp : s.pos = p) (hb : p.between = true) : BetweenLines s := hs.between (hp ▸ hb)
  unfold Sequencer.goOn at h
  split at h
  case h_1 hp => simp [hs.runPos.mpr hp] at hr
  case h_2 polled hp =>
    cases h
    have hrun : (Sequencer.sampleBusy polled s).run = s.run := by cases polled <;> rfl
    have hpos : (Sequencer.sampleBusy polled s).pos = s.pos := by cases polled <;> rfl
    exact standing_of_busyWait (hrun.trans hr) (hpos.trans hp)
  case h_3 todo hp =>
    cases h
    exact (resumeTimed_betweenLines todo s (between hp rfl)).finish fun _ => BetweenLines.ret
  case h_4 block hp =>
    cases h
    exact (zeroStepRound_betweenLines block s (between hp rfl)).finish fun _ => BetweenLines.ret
  case h_5 hp => exact absurd hp (hs.notSending _)
  case h_6 hp => exact absurd hp (hs.notSending _)

/-- The sequencer's turn keeps the invariant; it writes no byte of the frame buffer (R64). -/
theorem turn_inv {s t : State} (hs : Inv s) (h : Sequencer.turn s = .next t) : Inv t := by
  obtain ⟨hst, hmem⟩ := inv_iff.mp hs
  refine inv_iff.mpr ⟨?_, (turn_ran h).mem ▸ hmem⟩
  unfold Sequencer.turn at h
  split at h
  · rename_i hr
    exact goOn_standing hst hr h
  · cases h; exact hst

/-- A reset leaves the invariant, whatever it found (R250). -/
theorem reset_inv {s t : State} (hm : s.mem.wf) (h : HostPort.reset s = .next t) : Inv t := by
  obtain rfl := reset_next h
  have pins : Pins.low.reset = false ∧ Pins.low.panelOn = false ∧ Pins.low.discharge = false
      ∧ Pins.low.border = false := ⟨rfl, rfl, rfl, rfl⟩
  exact inv_iff.mpr
    ⟨⟨iff_of_true rfl rfl, fun _ => Pos.noConfusion, fun _ => ⟨rfl, .inl rfl, nofun, fun _ => pins⟩⟩, hm⟩

theorem Performs.inv {a : HostAct} {s t : State} (h : Performs s a t) (hs : Inv s) : Inv t := by
  obtain ⟨hst, hmem⟩ := inv_iff.mp hs
  cases h with
  | command hr hi h =>
    have hb : BetweenLines s := hst.between (by rw [hst.runPos.mp hr]; rfl)
    exact inv_iff.mpr ⟨exec_standing hi hb h, (exec_ran h).mem ▸ hmem⟩
  | ignored => exact hs
  | stored => exact { hs with }
  | returned => exact { hs with }
  | polled => exact { hs with }
  | filled v => exact { hs with memWf := Memory.store_wf _ v hs.memWf }
  | strapped => exact { hs with }
  | reset h => exact reset_inv hmem h

/-- Settles O55: the host's action runs a command from between lines or writes nothing the invariant names but a reset's
values, and the sequencer goes on from a position to one that stands. -/
theorem stepKeepsInvariant : Obligations.StepKeepsInvariant := by
  intro s t hs h
  obtain h | ⟨a, rest, -, h⟩ := step_cases h
  · exact turn_inv hs h
  · exact h.inv { hs with }

end Sys2Proof.Machine

/-! Who writes what: `SIZE` and the strap, `ST`, `PSM`, the pins and `TOFF`, and what no instruction and no step
writes. -/

namespace Sys2Proof.Machine

/-- Settles O52: BEGIN, END and the fault path among them, every instruction keeps what `Ran` names. -/
theorem execLeavesHostSideUntouched : Obligations.ExecLeavesHostSideUntouched := fun _ _ _ h =>
  ⟨(exec_ran h).toUntouched, (exec_ran h).cap2, (exec_ran h).cap3⟩

/-- Settles O57: of every step, the host's actions and a reset among them. -/
theorem stepKeepsConfiguration : Obligations.StepKeepsConfiguration := fun _ _ h =>
  ⟨(step_kept h).par, (step_kept h).env⟩

/-! ## `SIZE` and the strap -/

/-- A host action that is performed writes `SIZE` by a reset only, and the strap by setting it only (R21, R120). -/
theorem Performs.size {a : HostAct} {s t : State} (h : Performs s a t) :
    (t.size = s.size ∨ a = .reset ∧ t.size = resolveSize s.sizeSel)
      ∧ (t.sizeSel = s.sizeSel ∨ a = .strap t.sizeSel) := by
  cases h with
  | command hr hi h => exact ⟨.inl (exec_ran h).size, .inl (exec_ran h).sizeSel⟩
  | ignored | stored | returned | polled | filled => exact ⟨.inl rfl, .inl rfl⟩
  | strapped code => exact ⟨.inl rfl, .inr rfl⟩
  | reset h =>
    obtain rfl := reset_next h
    exact ⟨.inr ⟨rfl, rfl⟩, .inl rfl⟩

/-- Settles O16: no instruction writes either, so that only the host's reset and its setting of the strap do. -/
theorem sizeChangesOnlyAtReset : Obligations.SizeChangesOnlyAtReset := by
  intro s t h
  obtain h | ⟨a, rest, hq, h⟩ := step_cases h
  · exact ⟨.inl (turn_ran h).size, .inl (turn_ran h).sizeSel⟩
  · obtain ⟨hz, hc⟩ := h.size
    refine ⟨hz.imp_right ?_, hc.imp_right ?_⟩
    · intro ⟨ha, hz⟩
      exact ⟨rest, by rw [hq, ha], hz⟩
    · intro ha
      exact ⟨t.sizeSel, rest, by rw [hq, ha], rfl⟩

/-! ## `ST`, `PSM`, the pins and `TOFF` -/

theorem Always.movedFromAccept {o : Op} (h : Always Moved o) (s : State) : Moved s (o (accept s)).finish :=
  (moved_accept s).trans (moved_finish (h (accept s)))

/-- An instruction other than BEGIN, END and SETFACTOR moves what `Moved` allows only (R25, R26, R182). -/
theorem exec_moved {i : Instr} {s t : State} (hb : i ≠ .beginCmd) (he : i ≠ .endCmd) (hf : i ≠ .setFactor)
    (h : exec i s = .next t) : Moved s t := by
  cases i with
  | beginCmd => exact absurd rfl hb
  | endCmd => exact absurd rfl he
  | setFactor => exact absurd rfl hf
  | frameFixed13 => cases h; exact Always.movedFromAccept (fun u => (sweepOp_drew _ _ u).1) s
  | frameData13 => cases h; exact Always.movedFromAccept (fun u => (sweepOp_drew _ _ u).1) s
  | frameStage2 => cases h; exact Always.movedFromAccept (fun u => (timedHalves_drew _ u).1) s
  | line => cases h; exact Always.movedFromAccept (fun u => (lineOp_drew _ u).1) s
  | wireSelect a => cases h; exact regSelect_moved a s
  | wireWrite d more => cases h; exact writeFramed_moved _ s
  | wireLineData b odd scan even => cases h; exact writeFramed_moved _ s
  | wireIdRead x => cases h; exact readFramed_moved (by simp) s
  | wireRegRead x => cases h; exact readFramed_moved (by simp) s

/-- `TOFF` holds this offset (R25). -/
def ToffIs (o : Fin 3) (s : State) : Prop := s.toff = o

theorem ToffIs.of_eq {o : Fin 3} {s t : State} (h : t.toff = s.toff) (hs : ToffIs o s) : ToffIs o t := h.trans hs

/-- `TOFF` is carried along by every part of an operation, the fault path among them (R25). -/
theorem carries_toffIs (o : Fin 3) : Carries (ToffIs o) (ToffIs o) where
  moved := fun m => .of_eq m.toff
  waits := fun h _ _ => h
  raises := fun {c s} => .of_eq (by rw [ret_toff, powerOff_toff, setPsm_toff, setStatus_toff])

theorem beginOp_toffIs (o : Fin 3) : Ends (ToffIs o) (ToffIs o) beginOp (ToffIs o) := by
  have c := carries_toffIs o
  have step1 : Ends (ToffIs o) (ToffIs o) beginStep1 (ToffIs o) := .inOrder (by simp [ends_act_iff, ToffIs])
  have step2 : Ends (ToffIs o) (ToffIs o) beginStep2 (ToffIs o) := .inOrder (by simp [ends_act_iff, ToffIs])
  have step8 : Ends (ToffIs o) (ToffIs o) beginStep8 (ToffIs o) := .inOrder (by simp [ends_act_iff, ToffIs, c.regWrite])
  exact .inOrder (by simp [ends_act_iff, ToffIs, step1, step2, c.beginStep3, c.beginStep4, c.beginStep5, c.beginStep6,
    c.beginStep7, step8])

theorem endOp_toffIs (o : Fin 3) : Ends (ToffIs o) (ToffIs o) endOp (ToffIs o) := by
  have c := carries_toffIs o
  have flush : Ends (ToffIs o) (ToffIs o) endFlush (ToffIs o) := c.endFlush fun _ _ => .of_eq rfl
  exact .inOrder (by simp [ends_act_iff, ToffIs, flush, c.endRecheck, c.endTeardown, powerOff_toff])

/-- An instruction other than SETFACTOR keeps `TOFF` (R25). -/
theorem exec_toff {i : Instr} {s t : State} (hf : i ≠ .setFactor) (h : exec i s = .next t) : t.toff = s.toff := by
  by_cases hb : i = .beginCmd
  · subst hb
    cases h
    exact (beginOp_toffIs s.toff (accept s) rfl).finish fun _ => .of_eq rfl
  · by_cases he : i = .endCmd
    · subst he
      cases h
      exact (endOp_toffIs s.toff (accept s) rfl).finish fun _ => .of_eq rfl
    · exact (exec_moved hb he hf h).toff

/-- Settles O53: BEGIN and END apart, an instruction but SETFACTOR moves what `Moved` allows only, and SETFACTOR writes
`TOFF` and returns. -/
theorem writersOfStatusPowerAndBand : Obligations.WritersOfStatusPowerAndBand := by
  refine fun i s t h => ⟨fun hf => exec_toff hf h, fun hb he => ?_⟩
  by_cases hf : i = .setFactor
  · subst hf
    cases h
    exact ⟨rfl, rfl, rfl, rfl, rfl, rfl⟩
  · have m := exec_moved hb he hf h
    exact ⟨m.st, m.psm, m.reset, m.panelOn, m.discharge, m.border⟩

end Sys2Proof.Machine

/-! The host's port: the layout of `STATUS`, and a read and a write at every offset. -/

namespace Sys2Proof.Machine

/-- Settles O8: each code of `ST` is two bits, and `RUN` is bit 4. -/
theorem statusWordLayout : Obligations.StatusWordLayout := by
  intro s
  unfold State.statusWord
  cases s.st <;> cases s.run <;> decide

/-- A step whose host has an action other than a WAIT performs it, off the queue (R70, R102). -/
theorem step_of_act {s : State} {a : HostAct} {rest : List HostAct} (hq : s.hostQ = a :: rest) (ha : a ≠ .wait) :
    step s = HostPort.perform a { s with hostQ := rest } := by
  simp only [step, hq, stepAct, ha, false_and, if_false]

/-- Settles O15: the action is the update. -/
theorem strapSetsSelectorOnly : Obligations.StrapSetsSelectorOnly := fun _ _ _ hq => step_of_act hq nofun

/-- Offsets from 0x18 on read 0 (R35). -/
theorem readReg_of_le (s : State) {offset : Nat} (h : 0x18 ≤ offset) : HostPort.readReg s offset = 0 := by
  have : offset ≠ 0x04 ∧ offset ≠ 0x08 ∧ offset ≠ 0x0C ∧ offset ≠ 0x10 ∧ offset ≠ 0x14 := by omega
  simp [HostPort.readReg, this]

/-- Settles O9: a read at the port is refused or answers `readReg`, which the offset picks. -/
theorem hostReadOfEveryOffset : Obligations.HostReadOfEveryOffset := by
  intro s width offset rest hq
  have hstep : step s = HostPort.read width offset { s with hostQ := rest } := step_of_act hq nofun
  rw [hstep, read_eq]
  refine ⟨fun hok => ?_, fun hok => if_neg hok⟩
  refine ⟨_, if_pos hok, rfl, ?_, ?_, ?_, ?_, ?_, ?_, readReg_of_le _⟩ <;> (rintro rfl; rfl)

/-- An argument register holds what is written at its offset, and nothing else of the four changes (R24). -/
theorem writeArg_fields (x : Args) (offset : Nat) (v : Word) :
    (HostPort.writeArg x offset v).line = (if offset = 0x08 then v else x.line)
      ∧ (HostPort.writeArg x offset v).pix = (if offset = 0x0C then v else x.pix)
      ∧ (HostPort.writeArg x offset v).temp = (if offset = 0x10 then v else x.temp)
      ∧ (HostPort.writeArg x offset v).fb = (if offset = 0x14 then v else x.fb) := by
  obtain rfl | h8 := eq_or_ne offset 0x08
  · exact ⟨rfl, rfl, rfl, rfl⟩
  obtain rfl | hC := eq_or_ne offset 0x0C
  · exact ⟨rfl, rfl, rfl, rfl⟩
  obtain rfl | h10 := eq_or_ne offset 0x10
  · exact ⟨rfl, rfl, rfl, rfl⟩
  obtain rfl | h14 := eq_or_ne offset 0x14
  · exact ⟨rfl, rfl, rfl, rfl⟩
  simp [HostPort.writeArg, h8, hC, h10, h14]

/-- Settles O10: a write at the port is refused, or, off `CMD`, stores by `writeArg`. -/
theorem hostWriteOfEveryOffset : Obligations.HostWriteOfEveryOffset := by
  intro s width offset v rest hq
  have hstep : step s = HostPort.write width offset v { s with hostQ := rest } := step_of_act hq nofun
  rw [hstep, write_eq]
  refine ⟨fun hok h0 => ?_, fun hok => if_neg hok⟩
  rw [if_pos hok, if_neg h0]
  exact ⟨_, rfl, writeArg_fields s.args offset v⟩

end Sys2Proof.Machine

/-! The host's fill of a frame-buffer byte (R61, R62, R64). -/

namespace Sys2Proof.Machine

/-- A read of the byte just stored gives the stored value, never the free one (R62). -/
@[simp] theorem Memory.byte_store_same (m : Memory) (a : Nat) (v : Byte) : (m.store a v).byte a = v := by
  simp only [Memory.byte, Memory.stored_store_same, Option.getD_some]

@[simp] theorem Memory.byte_store_other (m : Memory) {a b : Nat} (v : Byte) (h : b ≠ a) :
    (m.store a v).byte b = m.byte b := by
  simp only [Memory.byte, Memory.stored_store_other m v h]

/-- A fill during an operation is refused, whatever the address (R266). -/
theorem poke_of_run {s : State} (a : Nat) (v : Byte) (hr : s.run = true) :
    HostPort.poke a v s = .refused .bufferInUse := by
  simp only [HostPort.poke, hr, if_true]

/-- Between operations a fill inside the address space is stored (R61). -/
theorem poke_of_lt {s : State} {a : Nat} (v : Byte) (hr : s.run = false) (ha : a < 2 ^ s.par.addrBits) :
    HostPort.poke a v s = .next { s with mem := s.mem.store a v } := by
  simp only [HostPort.poke, hr, Bool.false_eq_true, if_false, if_pos ha]

/-- Between operations a fill outside the address space faults. -/
theorem poke_of_le {s : State} {a : Nat} (v : Byte) (hr : s.run = false) (ha : 2 ^ s.par.addrBits ≤ a) :
    HostPort.poke a v s = .fault (.noSuchAddress a) := by
  simp only [HostPort.poke, hr, Bool.false_eq_true, if_false, if_neg ha.not_gt]

/-- Settles O12: the fill that is taken is `Memory.store`, which the laws of the frame buffer describe. -/
theorem hostFillThenBufferRead : Obligations.HostFillThenBufferRead := by
  intro s a v rest hq hwf
  have hstep : step s = HostPort.poke a v { s with hostQ := rest } := step_of_act hq nofun
  rw [hstep]
  refine ⟨fun hr ha => ?_, fun hr => poke_of_run a v hr, fun hr ha => poke_of_le v hr ha⟩
  exact ⟨s.mem.store a v, poke_of_lt v hr ha, Memory.store_wf a v hwf, Memory.byte_store_same _ a v,
    fun b hb => Memory.byte_store_other _ v hb⟩

end Sys2Proof.Machine

/-! The encodings: the decoder and the encoder agree, on the command words (R80 to R84) and on the wire frames (R86 to
R90). -/

namespace Sys2Proof

/-! ## Command words -/

/-- A word whose upper 28 bits are 0 is its low four bits. -/
theorem cmdWord_eq_ofNat {w : Word} {n : Nat} (hu : w >>> 4 = 0#32) (ho : (w &&& 0xF#32).toNat = n) :
    w = BitVec.ofNat 32 n := by
  have hlt : w.toNat < 16 := by
    have hz : w.toNat >>> 4 = 0 := by rw [← BitVec.toNat_ushiftRight, hu]; rfl
    rw [Nat.shiftRight_eq_div_pow] at hz
    omega
  have hn : w.toNat % 16 = n := by
    rw [← ho, BitVec.toNat_and]
    exact (Nat.and_two_pow_sub_one_eq_mod w.toNat 4).symm
  apply BitVec.eq_of_toNat_eq
  rw [BitVec.toNat_ofNat]
  omega

/-- The seven rows of R82, read in either direction. -/
theorem decodeCmd_eq_ok_iff {w : Word} {i : Instr} : decodeCmd w = .ok i ↔ encode i = .cmd w := by
  constructor
  · intro h
    unfold decodeCmd at h
    split at h
    case isTrue => cases h
    case isFalse hu =>
      split at h
      case h_8 => cases h
      all_goals
        cases h
        rw [cmdWord_eq_ofNat (not_not.mp hu) ‹_›]
        rfl
  · intro h
    cases i with
    | beginCmd | endCmd | setFactor | frameFixed13 | frameData13 | frameStage2 | line => cases h; rfl
    | wireSelect | wireWrite | wireLineData | wireIdRead | wireRegRead => cases h

/-- The words 1 to 7 alone encode a command; all others are reserved (R84(a)). -/
theorem exists_encode_eq_cmd_iff {w : Word} : (∃ i, encode i = .cmd w) ↔ 1 ≤ w.toNat ∧ w.toNat ≤ 7 := by
  constructor
  · rintro ⟨i, h⟩
    cases i with
    | beginCmd | endCmd | setFactor | frameFixed13 | frameData13 | frameStage2 | line => cases h; decide
    | wireSelect | wireWrite | wireLineData | wireIdRead | wireRegRead => cases h
  · rintro ⟨hlo, hhi⟩
    obtain ⟨n, hn⟩ : ∃ n, w.toNat = n := ⟨_, rfl⟩
    obtain rfl : w = BitVec.ofNat 32 n := by rw [← hn, BitVec.ofNat_toNat, BitVec.setWidth_eq]
    rw [hn] at hlo hhi
    interval_cases n
    · exact ⟨.beginCmd, rfl⟩
    · exact ⟨.endCmd, rfl⟩
    · exact ⟨.setFactor, rfl⟩
    · exact ⟨.frameFixed13, rfl⟩
    · exact ⟨.frameData13, rfl⟩
    · exact ⟨.frameStage2, rfl⟩
    · exact ⟨.line, rfl⟩

/-- The words that decode are the words 1 to 7 (R82, R84(a)). -/
theorem exists_decodeCmd_eq_ok_iff {w : Word} : (∃ i, decodeCmd w = .ok i) ↔ 1 ≤ w.toNat ∧ w.toNat ≤ 7 := by
  simp only [decodeCmd_eq_ok_iff, exists_encode_eq_cmd_iff]

/-! ## The payloads of the frames -/

/-- A two-byte frame is the encoding of the instruction read from it, where the instruction's own encoding is its
command byte and its operand (R87, R89). -/
theorem encode_of_oneOperand {c : WireCtx} {k : Byte} {mk : Byte → Instr} {rest : List Byte} {i : Instr}
    (hmk : ∀ x, (mk x).wellFormed c = true ∧ encode (mk x) = .frame [k, x]) (h : oneOperand mk rest = .ok i) :
    i.wellFormed c = true ∧ encode i = .frame (k :: rest) := by
  match rest with
  | [] => cases h
  | [x] => cases h; exact hmk x
  | _ :: _ :: _ => cases h

theorem splitWrite_eq_ok_iff {rest : List Byte} {i : Instr} :
    splitWrite rest = .ok i ↔
      ∃ d more, rest = d :: more ∧ (more.length = 0 ∨ more.length = 7) ∧ .wireWrite d more = i := by
  constructor
  · intro h
    cases rest with
    | nil => cases h
    | cons d more =>
      rw [splitWrite] at h
      split at h
      case isTrue hl => cases h; exact ⟨d, more, rfl, hl, rfl⟩
      case isFalse => cases h
  · rintro ⟨d, more, rfl, hl, rfl⟩
    exact if_pos hl

/-- The parts of a line data frame are determined by their lengths, so that cutting the payload undoes joining it. -/
theorem splitLineData_eq_ok_iff {c : WireCtx} {rest : List Byte} {i : Instr} :
    splitLineData c rest = .ok i ↔
      ∃ b odd scan even, rest = b :: (odd ++ scan ++ even) ∧ odd.length = c.bpl ∧ scan.length = c.bps
        ∧ even.length = c.bpl ∧ .wireLineData b odd scan even = i := by
  constructor
  · intro h
    cases rest with
    | nil => cases h
    | cons b rest =>
      rw [splitLineData] at h
      split at h
      case isFalse => cases h
      case isTrue hl =>
        cases h
        refine ⟨b, _, _, _, ?_, ?_, ?_, ?_, rfl⟩
        · rw [← List.drop_drop, List.append_assoc, List.take_append_drop, List.take_append_drop]
        all_goals simp only [List.length_take, List.length_drop]; omega
  · rintro ⟨b, odd, scan, even, rfl, ho, hs, he, rfl⟩
    have hl : (odd ++ scan ++ even).length = c.bpl + c.bps + c.bpl := by
      rw [List.length_append, List.length_append, ho, hs, he]
    have hos : (odd ++ scan).length = c.bpl + c.bps := by rw [List.length_append, ho, hs]
    rw [splitLineData, if_pos hl, List.drop_left' hos, List.append_assoc, List.take_left' ho, List.drop_left' ho,
      List.take_left' hs]

/-! ## Frames, by their command byte -/

/-- A 0x72 frame is cut up as the register last selected says (R88, R90). -/
theorem decodeFrame_cmdWrite (c : WireCtx) (rest : List Byte) :
    decodeFrame c (Config.cmdWrite :: rest) = if c.selectsData then splitLineData c rest else splitWrite rest := rfl

/-- A frame that decodes is one of the five, each with its own command byte, context and payload (R86 to R90). -/
theorem decodeFrame_eq_ok_iff {c : WireCtx} {bytes : List Byte} {i : Instr} :
    decodeFrame c bytes = .ok i ↔ i.wellFormed c = true ∧ encode i = .frame bytes := by
  constructor
  · intro h
    cases bytes with
    | nil => cases h
    | cons k rest =>
      simp only [decodeFrame] at h
      split_ifs at h with hk hk hk hk hd
      · exact encode_of_oneOperand (fun x => ⟨rfl, by rw [hk]; rfl⟩) h
      · exact encode_of_oneOperand (fun x => ⟨rfl, by rw [hk]; rfl⟩) h
      · exact encode_of_oneOperand (fun x => ⟨rfl, by rw [hk]; rfl⟩) h
      · obtain ⟨b, odd, scan, even, rfl, ho, hs, he, rfl⟩ := splitLineData_eq_ok_iff.mp h
        exact ⟨by simp [Instr.wellFormed, hd, ho, hs, he], by rw [hk]; rfl⟩
      · obtain ⟨d, more, rfl, hl, rfl⟩ := splitWrite_eq_ok_iff.mp h
        exact ⟨by simpa [Instr.wellFormed, hd] using hl, by rw [hk]; rfl⟩
  · rintro ⟨hw, h⟩
    cases i with
    | beginCmd | endCmd | setFactor | frameFixed13 | frameData13 | frameStage2 | line => cases h
    | wireSelect a => cases h; rfl
    | wireIdRead x => cases h; rfl
    | wireRegRead f => cases h; rfl
    | wireWrite d more =>
      cases h
      simp only [Instr.wellFormed, Bool.and_eq_true, Bool.not_eq_true', Bool.or_eq_true, beq_iff_eq] at hw
      obtain ⟨hd, hl⟩ := hw
      rw [decodeFrame_cmdWrite, hd]
      exact splitWrite_eq_ok_iff.mpr ⟨d, more, rfl, hl, rfl⟩
    | wireLineData b odd scan even =>
      cases h
      simp only [Instr.wellFormed, Bool.and_eq_true, beq_iff_eq] at hw
      obtain ⟨⟨⟨hd, ho⟩, hs⟩, he⟩ := hw
      rw [decodeFrame_cmdWrite, if_pos hd]
      exact splitLineData_eq_ok_iff.mpr ⟨b, odd, scan, even, rfl, ho, hs, he, rfl⟩

/-! ## Both encodings -/

theorem wellFormed_of_encode_eq_cmd {c : WireCtx} {i : Instr} {w : Word} (h : encode i = .cmd w) :
    i.wellFormed c = true := by
  cases i with
  | beginCmd | endCmd | setFactor | frameFixed13 | frameData13 | frameStage2 | line => rfl
  | wireSelect | wireWrite | wireLineData | wireIdRead | wireRegRead => cases h

/-- Decoding is exactly the inverse of encoding on the instructions well formed in the context. -/
theorem decode_eq_ok_iff {c : WireCtx} {code : Code} {i : Instr} :
    decode c code = .ok i ↔ i.wellFormed c = true ∧ encode i = code := by
  cases code with
  | cmd w => exact decodeCmd_eq_ok_iff.trans (iff_and_self.mpr wellFormed_of_encode_eq_cmd)
  | frame bytes => exact decodeFrame_eq_ok_iff

/-- Settles O2: a well-formed instruction is decoded from its own encoding. -/
theorem decodeOfEncodeIsIdentity : Obligations.DecodeOfEncodeIsIdentity := fun _ _ hw =>
  decode_eq_ok_iff.mpr ⟨hw, rfl⟩

/-- Settles O3: the other direction of the same equivalence. -/
theorem encodeOfDecodeIsIdentity : Obligations.EncodeOfDecodeIsIdentity := fun _ _ _ h => decode_eq_ok_iff.mp h

/-- Settles O1: the decoder is run on each of the words and frames. -/
theorem decodesSpecWords : Obligations.DecodesSpecWords := by
  unfold Obligations.DecodesSpecWords
  decide

end Sys2Proof

/-! The host's write of `CMD`, the sequencer's next frame, and acceptance: how an encoded instruction comes to run. -/

namespace Sys2Proof.Machine

/-- A step whose host writes `CMD` is that write, off the queue (R22, R35). -/
theorem step_of_cmdWrite {s : State} {w : Word} {rest : List HostAct} (hq : s.hostQ = .write 32 0 w :: rest) :
    step s = HostPort.writeCmd w { s with hostQ := rest } :=
  (step_of_act hq nofun).trans ((write_eq 32 0 w _).trans (if_pos ⟨rfl, rfl⟩))

/-- An idle sequencer runs the command that the word encodes (R83). -/
theorem writeCmd_of_ok {s : State} {w : Word} {i : Instr} (hr : s.run = false) (hi : decodeCmd w = .ok i) :
    HostPort.writeCmd w s = exec i s := by
  simp only [HostPort.writeCmd, hr, hi, Bool.false_eq_true, if_false]

/-- A word written while an operation runs, or that encodes no command, is ignored (R84). -/
theorem writeCmd_ignored {s : State} {w : Word} (h : s.run = true ∨ ¬ ∃ i, decodeCmd w = .ok i) :
    HostPort.writeCmd w s = .next s := by
  unfold HostPort.writeCmd
  split
  case isTrue => rfl
  case isFalse hr =>
    split
    case h_1 i hi => exact absurd ⟨i, hi⟩ (h.resolve_left hr)
    case h_2 => rfl

/-- Settles O4: the write of `CMD` is ignored while `RUN = 1` and for a word that does not decode. -/
theorem reservedCommandIgnored : Obligations.ReservedCommandIgnored := by
  refine ⟨fun w => exists_decodeCmd_eq_ok_iff, fun s w rest hq h => ?_⟩
  rw [step_of_cmdWrite hq]
  exact writeCmd_ignored (h.imp_right fun hw hi => hw (exists_decodeCmd_eq_ok_iff.mp hi))

/-- Settles O5: the host's write of `CMD` finds the sequencer idle. -/
theorem stepRunsAcceptedCommand : Obligations.StepRunsAcceptedCommand := by
  intro s w rest i hq hr hi
  rw [step_of_cmdWrite hq]
  exact writeCmd_of_ok hr hi

/-- The next frame to send, where it decodes, is run with the position moved past it (R86 to R90). -/
theorem goOn_of_sending {s : State} {frame : List Byte} {rest : List (List Byte)} {i : Instr}
    (hp : s.pos = .sending (frame :: rest)) (hi : decodeFrame (Sequencer.wireCtx s) frame = .ok i) :
    Sequencer.goOn s = exec i { s with pos := .sending rest } := by
  simp only [Sequencer.goOn, hp, Sequencer.sendFrame, hi]

/-- Settles O6: the step is the sequencer's, which stands before the frame. -/
theorem stepSendsPendingFrame : Obligations.StepSendsPendingFrame := by
  intro s frame rest i hr hp hq hi
  rw [step_of_run hr hq]
  exact goOn_of_sending hp hi

/-! ## The operands of R81 as arithmetic on the argument registers -/

theorem Args.index_toNat (x : Args) : x.index.toNat = x.line.toNat % 2 ^ 16 := BitVec.extractLsb'_toNat 0 16 x.line

theorem Args.value_toNat (x : Args) : x.value.toNat = x.pix.toNat % 2 ^ 8 := BitVec.extractLsb'_toNat 0 8 x.pix

theorem Args.border_toNat (x : Args) : x.border.toNat = x.pix.toNat / 2 ^ 8 % 2 ^ 8 := by
  rw [Args.border, BitVec.extractLsb'_toNat, Nat.shiftRight_eq_div_pow]

/-- A bit of a word as the arithmetic of R81 reads it. -/
theorem getLsbD_iff_div_mod {w : Word} {n : Nat} : w.getLsbD n = true ↔ w.toNat / 2 ^ n % 2 = 1 := by
  rw [← BitVec.testBit_toNat, Nat.testBit_eq_decide_div_mod_eq, decide_eq_true_iff]

theorem Args.stage_eq_normal_iff (x : Args) : x.stage = .normal ↔ x.pix.toNat / 2 ^ 16 % 2 = 1 := by
  rw [← getLsbD_iff_div_mod, Args.stage]
  split
  case isTrue hb => exact iff_of_true rfl hb
  case isFalse hb => exact iff_of_false nofun hb

theorem Args.temperature_eq (x : Args) :
    x.temperature = if x.temp.toNat < 2 ^ 31 then (x.temp.toNat : Int) else x.temp.toNat - 2 ^ 32 := by
  rw [Args.temperature, BitVec.toInt_eq_toNat_cond]
  split <;> split <;> omega

/-- Settles O11: acceptance latches the operands, which the lemmas above give as arithmetic. -/
theorem acceptanceLatchesOperands : Obligations.AcceptanceLatchesOperands := fun s =>
  ⟨rfl, rfl, s.args.index_toNat, s.args.value_toNat, s.args.border_toNat, s.args.stage_eq_normal_iff,
    getLsbD_iff_div_mod, s.args.temperature_eq, rfl⟩

end Sys2Proof.Machine

/-! The write and read frames of the wire rows (R88 to R90), when their waits end. -/

namespace Sys2Proof.Machine

/-- What the framing engine does, as a trace. -/
theorem Sends.traced {s t : State} {o : List Event} {m : List Nat} {w r : Nat} (h : Sends s t o m w r) :
    Traced s t o := by
  obtain ⟨evs, he, ho, -⟩ := h.events
  exact ⟨evs, he, ho⟩

/-- What the framing engine leaves as it was, where no answer is captured. -/
theorem Sends.drawn {s t : State} {o : List Event} {m : List Nat} {w r : Nat} (h : Sends s t o m w r)
    (hc : t.rxcap = s.rxcap) : Drawn s t :=
  ⟨h.toUntouched, h.st, h.toff, h.psm, hc, h.reset, h.panelOn, h.discharge, h.border⟩

/-- An instruction that is one write frame of `n` bytes (R88, R90, R215). -/
theorem exec_writeFramed {i : Instr} {bytes : List Byte} {n : Nat} {s : State}
    (hi : exec i s = .next (writeFramed bytes s).state) (hn : bytes.length = n) (h : Responsive s n) :
    ∃ t, exec i s = .next t ∧ Drawn s t ∧ Traced s t (frameTr bytes)
      ∧ t.pins.cs = true ∧ t.sel = s.sel ∧ t.busEn = s.busEn ∧ t.run = s.run ∧ t.pos = s.pos
      ∧ t.rxSeen = s.rxSeen + n ∧ t.waitSeen = s.waitSeen + n := by
  subst hn
  obtain ⟨t, ht, hs, hpins, hbus, hsel, hcap, -⟩ := writeFramed_sends bytes s h
  exact ⟨t, by rw [hi, ht, Flow.state_on], hs.drawn hcap, hs.traced, by rw [hpins], hsel, hbus, hs.run, hs.pos,
    hs.xfers, hs.waits⟩

/-- Settles O22: the frame is 0x72 and the payload. -/
theorem wireWriteFrame : Obligations.WireWriteFrame := by
  intro d more s h
  have hn : (Config.cmdWrite :: d :: more).length = 2 + more.length := by
    rw [List.length_cons, List.length_cons, Nat.add_assoc, Nat.add_comm]
  simpa only [Nat.add_assoc, Config.cmdWrite] using exec_writeFramed (i := .wireWrite d more) rfl hn h

/-- Settles O23: the frame is 0x72, the border byte and the three parts in order. -/
theorem wireLineDataFrame : Obligations.WireLineDataFrame := by
  intro b odd scan even s h
  have hn : (Config.cmdWrite :: b :: (odd ++ scan ++ even)).length = 2 + odd.length + scan.length + even.length := by
    simp only [List.length_cons, List.length_append]
    omega
  simpa only [Nat.add_assoc, Config.cmdWrite] using exec_writeFramed (i := .wireLineData b odd scan even) rfl hn h

/-- Settles O24: both instructions are `readFramed` of their command byte and the operand. -/
theorem wireReadFrames : Obligations.WireReadFrames := by
  intro x s i k hi h
  have hexec : exec i s = .next (readFramed [k, x] s).state := by
    obtain ⟨rfl, rfl⟩ | ⟨rfl, rfl⟩ := hi
    · rfl
    · rfl
  obtain ⟨t, ht, hs, hpins, hbus, hsel, hcap, hlast, -⟩ := readFramed_sends k x s h
  refine ⟨t, by rw [hexec, ht, Flow.state_on], hs.toUntouched, hs.traced, hlast, ?_, ?_, ?_, ?_, hpins, hsel, hbus,
    hs.run, hs.pos, hs.st, hs.psm, hs.toff, hs.xfers, hs.waits⟩
  all_goals simp [hcap]

end Sys2Proof.Machine

/-! The panel profile: the invariants of a row, the check of the whole table at reset, and the size a strap code
selects. -/

namespace Sys2Proof

/-- The invariants of a row as R122 states them, in arithmetic. -/
theorem Profile.wf_iff (p : Profile) :
    p.wf = true ↔ 8 * p.bytesPerLine.toNat = p.dotsPerLine.toNat ∧ 4 * p.bytesPerScan.toNat = p.linesPerDisplay.toNat
      ∧ p.channelSelect.length = 9 ∧ p.channelSelect.head? = some 0x72 := by
  simp only [Profile.wf, Bool.and_eq_true, beq_iff_eq, Nat.mul_comm, and_assoc, BitVec.ofNat_eq_ofNat]

end Sys2Proof

namespace Sys2Proof.Machine

/-- A sound table is one whose row is sound for every size (R122, U12). -/
theorem tableOk_iff (p : Params) : HostPort.tableOk p = true ↔ ∀ z, (p.profile z).wf = true := by
  simp only [HostPort.tableOk, Bool.and_eq_true]
  constructor
  · rintro ⟨⟨h144, h200⟩, h270⟩ z
    cases z with
    | s144 => exact h144
    | s200 => exact h200
    | s270 => exact h270
  · exact fun h => ⟨⟨h .s144, h .s200⟩, h .s270⟩

/-- A reset is refused where a row of the table, whichever it is, is not well formed (R122, U12). -/
theorem reset_refused {s : State} {z : Size} (hz : (s.par.profile z).wf = false) :
    HostPort.reset s = .refused .profileTable :=
  if_neg fun h => Bool.false_ne_true (hz.symm.trans ((tableOk_iff s.par).mp h z))

/-- Settles O14: the step is the host's reset, which checks every row of the table. -/
theorem resetRefusesIllFormedTable : Obligations.ResetRefusesIllFormedTable :=
  ⟨Profile.wf_iff, fun _ _ _ hq hz => (step_of_act hq nofun).trans (reset_refused hz)⟩

/-- Code 1 is the 2.0 inch panel, code 2 the 2.7 inch panel, and any other code, 0 among them, the 1.44 inch panel
(R21, R120). -/
theorem resolveSize_eq (sel : Byte) :
    resolveSize sel = if sel.toNat = 1 then .s200 else if sel.toNat = 2 then .s270 else .s144 := by
  have h1 : sel = 1 ↔ sel.toNat = 1 := BitVec.toNat_inj.symm
  have h2 : sel = 2 ↔ sel.toNat = 2 := BitVec.toNat_inj.symm
  obtain rfl | h0 := eq_or_ne sel 0
  · rfl
  · simp only [resolveSize, if_neg h0, h1, h2]

/-- Settles O17: the sizes are `resolveSize_eq`, and the 2.0 inch row is a constant, whatever the parameters are. -/
theorem sizeSelectorResolves : Obligations.SizeSelectorResolves :=
  ⟨resolveSize_eq, fun _ => ⟨rfl, rfl, rfl, rfl, rfl, rfl, rfl⟩⟩

end Sys2Proof.Machine

/-! SETFACTOR: the band index of a temperature, and the state the command returns with. -/

namespace Sys2Proof.Machine

/-- The three bands of R130 in numbers: both boundary values, 10 and 40, are in the middle one. -/
theorem bandOffset_val (t : Int) : (bandOffset t).val = if t < 10 then 0 else if t ≤ 40 then 1 else 2 := by
  simp only [bandOffset, Config.tLow, Config.tHigh]
  by_cases low : t < 10
  · simp [low]
  · by_cases mid : t ≤ 40
    · simp [low, mid]
    · simp [low, mid]

/-- The next state of SETFACTOR: acceptance, the write of `TOFF`, the return (R131). -/
theorem exec_setFactor (s : State) : exec .setFactor s = .next (ret (selectBand (accept s))) := rfl

/-- SETFACTOR decides the band by the operand it latched at its acceptance (R81, R131). -/
theorem setFactor_toff (s : State) : (ret (selectBand (accept s))).toff = bandOffset s.args.temp.toInt := by
  rw [ret_toff, selectBand_toff, accept_work_temperature, Args.temperature]

/-- SETFACTOR returns, from every state (R131). -/
theorem setFactor_returned (s : State) : Returned s (ret (selectBand (accept s))) := ⟨rfl, rfl, rfl⟩

/-- Settles O18: the band is `bandOffset_val` of the latched operand, what no instruction writes is `exec_ran`, and
none of the three parts of SETFACTOR writes a field that the rest of the statement names. -/
theorem setFactorSelectsBand : Obligations.SetFactorSelectsBand := by
  refine ⟨bandOffset_val, decodeCmd_eq_ok_iff.mpr rfl, fun s => ?_⟩
  have untouched : Untouched s (ret (selectBand (accept s))) := (exec_ran (exec_setFactor s)).toUntouched
  have band := (congrArg Fin.val (setFactor_toff s)).trans (bandOffset_val s.args.temp.toInt)
  exact ⟨_, exec_setFactor s, untouched, setFactor_returned s, band, rfl, rfl, rfl, rfl, rfl, rfl, rfl, rfl, rfl, rfl⟩

end Sys2Proof.Machine

/-! The Power Sequencer, whatever the environment answers: the account of a stretch of an operation (`Proceeds`), what
`power_off` and the fault path do, and how BEGIN and END that return have left the panel. -/

namespace Sys2Proof.Machine

/-! ## The account of a stretch of an operation -/

/-- From `s` to `t` an operation has made port events with outline `o`, begun `w` waits and made `r` transfers; at `t`
the status is `c`. The pins, the bus and `PSM` are left to other lemmas. -/
structure Proceeds (c : Status) (s t : State) (o : List Event) (w r : Nat) : Prop extends Untouched s t where
  st : t.st = c
  clockSeen : t.clockSeen = s.clockSeen
  returns : t.returns = s.returns
  waits : t.waitSeen = s.waitSeen + w
  xfers : t.rxSeen = s.rxSeen + r
  traced : Traced s t o

section
variable {c c' : Status} {s t u : State} {o o' : List Event} {m : List Nat} {w w' r r' n : Nat}

/-- One stretch, then the next, whose status stands. -/
theorem Proceeds.trans (a : Proceeds c s t o w r) (b : Proceeds c' t u o' w' r') :
    Proceeds c' s u (o ++ o') (w + w') (r + r') :=
  ⟨a.toUntouched.trans b.toUntouched, b.st, b.clockSeen.trans a.clockSeen, b.returns.trans a.returns,
    by rw [b.waits, a.waits, Nat.add_assoc], by rw [b.xfers, a.xfers, Nat.add_assoc], a.traced.trans b.traced⟩

/-- The same stretch under equal names for its outline and counts. -/
theorem Proceeds.cast (h : Proceeds c s t o w r) (ho : o = o') (hw : w = w') (hr : r = r') :
    Proceeds c s t o' w' r' := by
  subst ho hw hr
  exact h

/-- What the framing engine does is a stretch that writes no status. -/
theorem Sends.proceeds (h : Sends s t o m w r) : Proceeds s.st s t o w r :=
  ⟨h.toUntouched, h.st, h.clockSeen, h.returns, h.waits, h.xfers, h.traced⟩

/-- One stretch, then the next, which writes no status. -/
theorem Proceeds.next (a : Proceeds c s t o w r) (b : Proceeds t.st t u o' w' r') :
    Proceeds c s u (o ++ o') (w + w') (r + r') :=
  a.st ▸ a.trans b

theorem Proceeds.refl (s : State) : Proceeds s.st s s [] 0 0 :=
  ⟨.refl s, rfl, rfl, rfl, rfl, rfl, [], by simp, rfl⟩

theorem proceeds_accept (s : State) : Proceeds s.st s (accept s) [] 0 0 :=
  ⟨accept_untouched s, rfl, rfl, rfl, rfl, rfl, [], by simp, rfl⟩

theorem proceeds_setStatus (c : Status) (s : State) : Proceeds c s (setStatus c s) [.status c] 0 0 :=
  ⟨⟨rfl, rfl, rfl, rfl, rfl, rfl, rfl, rfl⟩, rfl, rfl, rfl, rfl, rfl, [.status c], rfl, rfl⟩

theorem Proceeds.setPsm (a : Proceeds c s t o w r) (q : Psm) : Proceeds c s (setPsm q t) o w r :=
  ⟨⟨a.par, a.sizeSel, a.size, a.args, a.mem, a.env, a.hostQ, a.hostRd⟩, a.st, a.clockSeen, a.returns, a.waits,
    a.xfers, a.traced⟩

theorem proceeds_pinWrite (p : Pin) (v : Bool) (s : State) : Proceeds s.st s (pinWrite p v s) [.pin p v] 0 0 :=
  ⟨⟨rfl, rfl, rfl, rfl, rfl, rfl, rfl, rfl⟩, rfl, rfl, rfl, rfl, rfl, [.pin p v], rfl, rfl⟩

theorem Proceeds.pin (a : Proceeds c s t o w r) (p : Pin) (v : Bool) :
    Proceeds c s (pinWrite p v t) (o ++ [.pin p v]) w r :=
  a.next (proceeds_pinWrite p v t)

theorem Proceeds.delay (a : Proceeds c s t o w r) (n : Nat) : Proceeds c s (delayMs n t) (o ++ [.delayMs n]) w r :=
  a.next (sends_emit (.delayMs n) t).proceeds

/-- The waits that a stretch leaves are still to come. -/
theorem Responsive.afterProceeds (h : Responsive s (w + n)) (a : Proceeds c s t o w r) : Responsive t n := by
  intro k hk
  rw [a.env, a.waits, Nat.add_assoc]
  exact h (w + k) (by omega)

/-- The answers to come after a stretch are those to come before it but for its transfers. -/
theorem Proceeds.answer (a : Proceeds c s t o w r) (k : Nat) : t.answer k = s.answer (r + k) := by
  rw [State.answer, State.answer, a.env, a.xfers, Nat.add_assoc]

/-! ## `power_off` and the fault path -/

/-- Discharge pulses write no status, wait on nothing and transfer nothing (R160). -/
theorem Pulsed.proceeds (h : Pulsed s t) (ht : Traced s t o) : Proceeds s.st s t o 0 0 :=
  ⟨h.toUntouched, h.st, h.clockSeen, h.returns, h.waitSeen, h.rxSeen, ht⟩

theorem pulledDown_proceeds (s : State) :
    Proceeds s.st s (pulledDown s) ([.pin .reset false, .pin .panelOn false, .pin .border false]
      ++ disableTr s.par.busSettleUs ++ [.pin .cs false]) 0 2 :=
  (((((Proceeds.refl s).pin .reset false).pin .panelOn false).pin .border false).next
    (sends_busDisable _).proceeds).pin .cs false

/-- `power_off` (R160): its events in order, two transfers, no wait, and no write of `ST`. -/
theorem powerOff_proceeds (s : State) : Proceeds s.st s (powerOff s) (powerOffTr s.par.busSettleUs) 0 2 := by
  obtain ⟨t, ht, pulses, -, tr⟩ := powerOff_pulses s
  rw [ht]
  exact ((pulledDown_proceeds s).next (pulses.proceeds tr)).setPsm .poweredDown

/-- The fault path after a stretch (R236): the code is written first, and `power_off` is all that follows. -/
theorem Proceeds.raise (a : Proceeds c s t o w r) (code : Status) :
    ∃ u, raise code t = .off (ret u) ∧ Proceeds code s u (o ++ raiseTr code s.par.busSettleUs) w (r + 2) := by
  have b := ((a.trans (proceeds_setStatus code t)).setPsm .faulted).next (powerOff_proceeds _)
  refine ⟨_, rfl, b.cast ?_ rfl rfl⟩
  rw [setPsm_par, setStatus_par, a.par, List.append_assoc]
  rfl

/-- An operation that returns after a stretch (R83). -/
theorem Proceeds.returned (a : Proceeds c s t o w r) : Returned s (ret t) := ⟨rfl, rfl, congrArg (· + 1) a.returns⟩

end

/-- Settles O41: `power_off` is the pins and the bus pulled down, and then ten pulses of DISCHARGE. -/
theorem powerOffLeavesPinsLow : Obligations.PowerOffLeavesPinsLow := by
  intro s
  obtain ⟨pins, bus, psm⟩ := powerOff_leaves s
  have h := powerOff_proceeds s
  exact ⟨h.toUntouched, pins, bus, psm, h.st, powerOff_toff s, h.waits, h.traced⟩

/-! ## What a part leaves behind, and what leaves the written order -/

/-- `PSM`, the pins and the bus as `power_off` leaves them (R161). -/
def PoweredDown (s : State) : Prop := s.psm = .poweredDown ∧ s.pins = Pins.low ∧ s.busEn = false

theorem powerOff_poweredDown (s : State) : PoweredDown (powerOff s) := by
  obtain ⟨pins, bus, psm⟩ := powerOff_leaves s
  exact ⟨psm, pins, bus⟩

/-- An operation that has returned has powered down. -/
def DownIfReturned (s : State) : Prop := s.run = false → PoweredDown s

/-- What leaves the written order returns by the fault path only: in a wait that never ends `RUN` is 1 (R236, R261). -/
theorem carries_downIfReturned : Carries DownIfReturned (fun _ => True) where
  moved := fun _ => id
  waits := fun _ hr _ h => absurd (hr.symm.trans h) (by decide)
  raises := fun {c s} _ _ => powerOff_poweredDown (setPsm .faulted (setStatus c s))

/-- A part that `Moved` describes, for an assertion that `Moved` keeps. -/
theorem Ends.of_moved {H P : State → Prop} {o : Op} (moved : ∀ {s t}, Moved s t → P s → P t)
    (off : ∀ t, P t → H t) (h : Always Moved o) : Ends H P o P := by
  intro s hs
  have hm := moved (h s) hs
  revert hm
  cases o s with
  | on t => exact id
  | off t => exact off t

/-- A verification, for an assertion from which the fault path with its code leads to `H` (R236). -/
theorem Ends.verify {H P : State → Prop} {passes : State → Bool} {c : Status}
    (h : ∀ s, P s → H (ret (powerOff (setPsm .faulted (setStatus c s))))) : Ends H P (verify passes c) P := by
  intro s hs
  cases hp : passes s with
  | true => rw [verify_on c hp]; exact hs
  | false => rw [verify_off c hp]; exact h s hs

/-- The fault path leaves its code in `ST` (R236, R237). -/
theorem faultPath_st (c : Status) (s : State) : (ret (powerOff (setPsm .faulted (setStatus c s)))).st = c :=
  (powerOff_proceeds (setPsm .faulted (setStatus c s))).st

theorem act_delayMs_moved (n : Nat) : Always Moved (act (delayMs n)) := moved_emit (.delayMs n)

theorem framePass_moved (v : Byte) : Always Moved (framePass v) := fun s => (framePass_drew v s).1

/-! ## BEGIN -/

theorem pumpAttempt_moved (i : Nat) : Always Moved (pumpAttempt i) :=
  inOrder_moved (by simp [act_moved, moved_setWork, act_delayMs_moved, regWrite_moved, regRead_moved])

theorem pumpLoop_moved (attempts : List Nat) : Always Moved (pumpLoop attempts) := by
  induction attempts with
  | nil => exact Moved.refl
  | cons i rest ih =>
    intro s
    refine Always.andThen (r := Moved) (fun _ _ _ => Moved.trans) (pumpAttempt_moved i s) fun t => ?_
    split
    · exact Moved.refl t
    · exact ih t

theorem beginStep6_moved : Always Moved beginStep6 := by
  have select : Always Moved fun s => writeFramed s.profile.channelSelect s := fun s => writeFramed_moved _ s
  exact inOrder_moved (by simp [regWrite_moved, regSelect_moved, select])

/-- `ST` and `PSM` in BEGIN before a verification has failed (R141). -/
def Unfaulted (s : State) : Prop := s.st = .ok ∧ s.psm ≠ .poweredDown

/-- A panel that BEGIN has powered down has a fault code (R144, R230). -/
def DownByFault (s : State) : Prop := s.psm = .poweredDown → s.st ≠ .ok

theorem unfaulted_of_moved {o : Op} (h : Always Moved o) : Ends DownByFault Unfaulted o Unfaulted :=
  .of_moved (fun m ⟨hst, hpsm⟩ => ⟨m.st.trans hst, m.psm ▸ hpsm⟩) (fun _ ht hd => absurd hd ht.2) h

theorem verify_unfaulted (passes : State → Bool) {c : Status} (hc : c ≠ .ok) :
    Ends DownByFault Unfaulted (verify passes c) Unfaulted :=
  .verify fun s _ _ => by rwa [faultPath_st]

/-- BEGIN writes a code other than Ok on the fault path only, and powers down there only (R141, R236). -/
theorem beginOp_unfaulted : Ends DownByFault (fun _ => True) beginOp Unfaulted := by
  have write {a : Byte} {d : RegData → Byte} := unfaulted_of_moved (regWrite_moved a d)
  have step1 : Ends DownByFault Unfaulted beginStep1 Unfaulted := .inOrder (by simp [ends_act_iff, Unfaulted])
  have step2 : Ends DownByFault Unfaulted beginStep2 Unfaulted := .inOrder (by simp [ends_act_iff, Unfaulted])
  have step3 : Ends DownByFault Unfaulted beginStep3 Unfaulted :=
    unfaulted_of_moved fun s => waitWhileBusy_moved true _ s
  have verifying : Ends DownByFault Unfaulted (act (setPsm .verifying)) Unfaulted :=
    .act fun _ ⟨hst, _⟩ => ⟨hst, by simp⟩
  have step4 : Ends DownByFault Unfaulted beginStep4 Unfaulted :=
    .inOrder (by simp [unfaulted_of_moved idRead_moved, verify_unfaulted])
  have step5 : Ends DownByFault Unfaulted beginStep5 Unfaulted :=
    .inOrder (by simp [write, unfaulted_of_moved (regRead_moved _), verify_unfaulted])
  have step7 : Ends DownByFault Unfaulted beginStep7 Unfaulted :=
    .inOrder (by simp [ends_act_iff, Unfaulted, unfaulted_of_moved (pumpLoop_moved _), verify_unfaulted])
  have step8 : Ends DownByFault Unfaulted beginStep8 Unfaulted := .inOrder (by simp [ends_act_iff, Unfaulted, write])
  have ready : Ends DownByFault Unfaulted (act (setPsm .ready)) Unfaulted :=
    .act fun _ ⟨hst, _⟩ => ⟨hst, by simp⟩
  exact .cons (Q := fun s => s.st = .ok) (.act fun _ _ => rfl) <| .cons (.act fun _ h => ⟨h, by simp⟩) <|
    .inOrder (by simp [step1, step2, step3, verifying, step4, step5, unfaulted_of_moved beginStep6_moved, step7,
      step8, ready])

/-- BEGIN goes on to its end with `PSM` ready; where it stops before and has returned, it has powered down (R140). -/
theorem beginOp_readyOrDown : Ends DownIfReturned (fun _ => True) beginOp fun t => t.psm = .ready := by
  have c := carries_downIfReturned
  have acts {f : State → State} : Ends DownIfReturned (fun _ => True) (act f) fun _ => True := .act fun _ => id
  have step1 : Ends DownIfReturned (fun _ => True) beginStep1 fun _ => True := fun _ => id
  have step2 : Ends DownIfReturned (fun _ => True) beginStep2 fun _ => True := fun _ => id
  have step8 := Ends.cons (c.regWrite Config.aOe RegData.oeDisable) (.cons (acts (f := busDisable)) .nil)
  exact .cons acts <| .cons acts <| .cons step1 <| .cons step2 <| .cons c.beginStep3 <| .cons acts <|
    .cons c.beginStep4 <| .cons c.beginStep5 <| .cons c.beginStep6 <| .cons c.beginStep7 <| .cons step8 <|
    .cons (.act fun _ _ => rfl) .nil

theorem exec_beginCmd (s : State) : exec .beginCmd s = .next (beginOp (accept s)).finish := rfl

/-- Settles O48: BEGIN that goes on to its end is between lines with `PSM` ready, so its pins are the powered ones; any
other return is by the fault path. -/
theorem beginHasTwoOutcomes : Obligations.BeginHasTwoOutcomes := by
  intro s t h hr
  cases h
  have code := beginOp_unfaulted (accept s) trivial
  have power := beginOp_readyOrDown (accept s) trivial
  have lines := beginOp_betweenLines (accept s) trivial
  revert hr code power lines
  cases beginOp (accept s) with
  | on u => exact fun _ code power lines => .inl ⟨code.1, power, lines.readyPins power, lines.busOff⟩
  | off u => exact fun hr code power _ => .inr ⟨code (power hr).1, power hr⟩

/-! ## END -/

/-- END goes on to its end powered down, and so is it where it stops before and has returned (R153). -/
theorem endOp_poweredDown : Ends DownIfReturned (fun _ => True) endOp PoweredDown := by
  have c := carries_downIfReturned
  exact .cons (c.endFlush fun _ _ => id) <| .cons c.endRecheck <| .cons c.endTeardown <|
    .cons (.act fun s _ => powerOff_poweredDown s) .nil

/-- `ST` holds this code. -/
def StIs (c : Status) (s : State) : Prop := s.st = c

/-- `ST` holds this code, or the one that END can raise (R155, R230). -/
def StIsOrFailed (c : Status) (s : State) : Prop := s.st = c ∨ s.st = .powerFailure

theorem stIs_of_moved {c : Status} {o : Op} (h : Always Moved o) : Ends (StIsOrFailed c) (StIs c) o (StIs c) :=
  .of_moved (fun m hs => m.st.trans hs) (fun _ => .inl) h

theorem endFlush_stIs (c : Status) : Ends (StIsOrFailed c) (StIs c) endFlush (StIs c) := by
  have border (v : Bool) : Ends (StIsOrFailed c) (StIs c) (act (pinWrite .border v)) (StIs c) := .act fun _ => id
  have delay (n : Nat) := stIs_of_moved (c := c) (act_delayMs_moved n)
  have pass (v : Byte) := stIs_of_moved (c := c) (framePass_moved v)
  intro s hs
  unfold endFlush
  split
  · exact Ends.inOrder (by simp [delay, border]) s hs
  · exact Ends.inOrder (by simp [delay, pass]) s hs

/-- END leaves `ST` as it was, but for `PowerFailure` on the fault path (R153, R155). -/
theorem endOp_stIs (c : Status) : Ends (StIsOrFailed c) (StIs c) endOp (StIs c) := by
  have recheck : Ends (StIsOrFailed c) (StIs c) endRecheck (StIs c) :=
    .cons (stIs_of_moved (act_moved moved_busEnable)) <| .cons (stIs_of_moved (regRead_moved _)) <|
      .cons (.verify fun s _ => .inr (faultPath_st .powerFailure s)) .nil
  have teardown := stIs_of_moved (c := c) (o := endTeardown)
    (inOrder_moved (by simp [act_delayMs_moved, regWrite_moved]))
  exact .cons (endFlush_stIs c) <| .cons recheck <| .cons teardown <|
    .cons (.act fun s hs => (powerOff_proceeds s).st.trans hs) .nil

theorem exec_endCmd (s : State) : exec .endCmd s = .next (endOp (accept s)).finish := rfl

/-- Settles O51: END that goes on to its end, and END that returns by the fault path. -/
theorem endAlwaysPowersDown : Obligations.EndAlwaysPowersDown := by
  intro s t h hr
  cases h
  have code := endOp_stIs s.st (accept s) rfl
  have power := endOp_poweredDown (accept s) trivial
  revert hr code power
  cases endOp (accept s) with
  | on u => exact fun _ code power => ⟨.inl code, power⟩
  | off u => exact fun hr code power => ⟨code, power hr⟩

end Sys2Proof.Machine

/-! BEGIN and END when their waits end: each step's events and counts, and how BEGIN and END end by what the controller
answers to the verifications. -/

namespace Sys2Proof.Machine

/-! ## Parts in a row -/

/-- A last part after parts that go on: what it answers. -/
theorem inOrder_snoc {os : List Op} {o : Op} {s t : State} (h : inOrder os s = .on t) :
    inOrder (os ++ [o]) s = o t := by
  induction os generalizing s with
  | nil =>
    obtain rfl : s = t := by simpa using h
    rw [List.nil_append, inOrder_cons]
    cases o s with
    | on u => rfl
    | off u => rfl
  | cons o' rest ih =>
    rw [inOrder_cons] at h
    rw [List.cons_append, inOrder_cons]
    cases ho : o' s with
    | on u => rw [ho] at h; exact ih h
    | off u => rw [ho] at h; cases h

/-- Register writes one after another, whose waits end (R219). -/
theorem regWrites_sends (ws : List (Byte × (RegData → Byte))) (s : State) (h : Responsive s (4 * ws.length)) :
    ∃ t, inOrder (ws.map fun w => regWrite w.1 w.2) s = .on t
      ∧ Sends s t (ws.flatMap fun w => writeTr w.1 (w.2 s.par.v)) [] (4 * ws.length) (4 * ws.length) := by
  induction ws generalizing s with
  | nil => exact ⟨s, rfl, .refl s⟩
  | cons w rest ih =>
    rw [List.length_cons, Nat.mul_succ, Nat.add_comm] at h
    obtain ⟨t, ht, a, -⟩ := regWrite_sends w.1 w.2 s (h.mono (by omega))
    obtain ⟨u, hu, b⟩ := ih t (h.after a)
    refine ⟨u, by rw [List.map_cons, inOrder_cons, ht, Flow.andThen_on, hu], (a.trans b).cast ?_ rfl ?_ ?_⟩
    · rw [a.par, List.flatMap_cons]
    · rw [List.length_cons]
      omega
    · rw [List.length_cons]
      omega

/-- The answers to come after the framing engine's activity are those to come before it but for its transfers. -/
theorem Sends.answer {s t : State} {o : List Event} {m : List Nat} {w r : Nat} (a : Sends s t o m w r) (k : Nat) :
    t.answer k = s.answer (r + k) := a.proceeds.answer k

/-! ## The tests as the controller's answers -/

theorem idPasses_iff {b : Byte} : idPasses b = true ↔ b &&& 0x0F = 0x02 := by
  simp [idPasses, Config.cogId]

theorem panelPasses_iff {b : Byte} : panelPasses b = true ↔ b &&& 0x80 ≠ 0 := by
  simp [panelPasses, Config.brokenMask]

theorem dcdcReady_iff {mask b : Byte} : dcdcReady mask b = true ↔ b &&& mask ≠ 0 := by
  simp [dcdcReady]

theorem idPasses_eq_false {b : Byte} : idPasses b = false ↔ b &&& 0x0F ≠ 0x02 := by
  rw [← Bool.not_eq_true, idPasses_iff]

theorem panelPasses_eq_false {b : Byte} : panelPasses b = false ↔ b &&& 0x80 = 0 := by
  rw [← Bool.not_eq_true, panelPasses_iff, not_not]

theorem dcdcReady_eq_false {mask b : Byte} : dcdcReady mask b = false ↔ b &&& mask = 0 := by
  rw [← Bool.not_eq_true, dcdcReady_iff, not_not]

/-! ## BEGIN, step by step -/

/-- Two ID reads whose waits end (R146, R222): the second answer is the one kept. -/
theorem idReads_sends (s : State) (h : Responsive s 4) :
    ∃ t, inOrder [idRead, idRead] s = .on t
      ∧ Sends s t (frameTr [0x71, s.par.idArg] ++ frameTr [0x71, s.par.idArg]) [] 4 4
      ∧ t.work.last = s.answer 3 := by
  obtain ⟨t, ht, a, -⟩ := readFramed_sends Config.cmdReadReq s.par.idArg s (h.mono (by omega))
  obtain ⟨u, hu, b, -, -, -, -, last, -⟩ :=
    readFramed_sends Config.cmdReadReq t.par.idArg t (Responsive.after (w := 2) (n := 2) h a)
  refine ⟨u, ?_, (a.trans b).cast ?_ rfl rfl rfl, ?_⟩
  · simp only [inOrder_cons, inOrder_nil, idRead, ht, hu, Flow.andThen_on]
  · rw [a.par]
    rfl
  · rw [last, a.answer]

/-- The write and the read before the panel is verified, when their waits end (R147). -/
theorem panelRead_sends (s : State) (h : Responsive s 8) :
    ∃ t, inOrder [regWrite Config.aOe RegData.oeDisable, regRead Config.aStat] s = .on t
      ∧ Sends s t (writeTr 0x02 s.par.v.oeDisable ++ readTr 0x0F s.par.rdFill) [] 8 8
      ∧ t.work.last = s.answer 7 := by
  obtain ⟨t, ht, a, -⟩ := regWrite_sends Config.aOe RegData.oeDisable s (h.mono (by omega))
  obtain ⟨u, hu, b, -, -, -, -, last, -⟩ :=
    regRead_sends Config.aStat t (Responsive.after (w := 4) (n := 4) h a)
  refine ⟨u, ?_, (a.trans b).cast ?_ rfl rfl rfl, ?_⟩
  · simp only [inOrder_cons, inOrder_nil, ht, hu, Flow.andThen_on]
  · rw [a.par]
    rfl
  · rw [last, a.answer]

/-- The outline of BEGIN step 6 (R148, R149, R150). -/
def step6Tr (s : State) : List Event :=
  writeTr 0x0B s.par.v.psave ++ frameTr [0x70, 0x00] ++ frameTr s.profile.channelSelect
    ++ writeTr 0x07 s.par.v.oscOn ++ writeTr 0x08 s.par.v.pwr1 ++ writeTr 0x09 s.par.v.vcom
    ++ writeTr 0x04 s.par.v.pwr2 ++ writeTr 0x03 s.par.v.latchOn ++ writeTr 0x03 s.par.v.latchOff

/-- BEGIN step 6 whose waits end (R148, R149, R150). -/
theorem beginStep6_sends (s : State) (h : Responsive s (30 + s.profile.channelSelect.length)) :
    ∃ t, beginStep6 s = .on t
      ∧ Sends s t (step6Tr s) [] (30 + s.profile.channelSelect.length) (30 + s.profile.channelSelect.length) := by
  obtain ⟨t1, e1, a1, -⟩ := regWrite_sends Config.aPsave RegData.psave s (h.mono (by omega))
  obtain ⟨t2, e2, a2, -⟩ := regSelect_sends Config.aChsel t1
    (Responsive.after (w := 4) (n := 2) (h.mono (by omega)) a1)
  have b2 := a1.trans a2
  obtain ⟨t3, e3, a3, -⟩ := writeFramed_sends t2.profile.channelSelect t2
    (by rw [b2.toUntouched.profile]; exact (h.mono (by omega)).after b2)
  rw [b2.toUntouched.profile] at e3 a3
  have b3 := b2.trans a3
  obtain ⟨t4, e4, a4⟩ := regWrites_sends [(Config.aOsc, RegData.oscOn), (Config.aPwr1, RegData.pwr1),
    (Config.aVcom, RegData.vcom), (Config.aPwr, RegData.pwr2), (Config.aLatch, RegData.latchOn),
    (Config.aLatch, RegData.latchOff)] t3 (Responsive.after (n := 24) (h.mono (by omega)) b3)
  refine ⟨t4, ?_, (b3.trans a4).cast ?_ rfl ?_ ?_⟩
  · rw [beginStep6, inOrder_cons, e1, Flow.andThen_on, inOrder_cons, e2, Flow.andThen_on, inOrder_cons,
      b2.toUntouched.profile, e3]
    exact e4
  · rw [b3.par]
    simp [step6Tr, Config.aPsave, Config.aChsel, Config.aOsc, Config.aPwr1, Config.aVcom, Config.aPwr, Config.aLatch]
  · simp only [List.length_cons, List.length_nil]
    omega
  · simp only [List.length_cons, List.length_nil]
    omega

/-- Whether the pumps report ready at attempt `j`, of the attempts that begin at `s` (R151). -/
def pumpReady (s : State) (j : Nat) : Bool := dcdcReady s.par.dcdcMask (s.answer (15 + 16 * j))

/-- After an attempt the loop breaks if the flag is set and goes on if it is not (R151). -/
theorem pumpLoop_cons_on {i : Nat} {rest : List Nat} {s t : State} (h : pumpAttempt i s = .on t) :
    pumpLoop (i :: rest) s = if t.work.dcOk then .on t else pumpLoop rest t := by
  simp only [pumpLoop, h, Flow.andThen_on]

/-- The pump attempts whose waits end, when the ready bit is clear before attempt `k` and either that is the last one
or the bit is set there: `k + 1` attempts are made (R151). -/
theorem pumpLoop_sends (attempts : List Nat) (k : Nat) (s : State) (h : Responsive s (16 * (k + 1)))
    (clear : ∀ j < k, pumpReady s j = false) (hk : k < attempts.length)
    (stop : k + 1 = attempts.length ∨ pumpReady s k = true) :
    ∃ t, pumpLoop attempts s = .on t
      ∧ Sends s t (List.replicate (k + 1) (attemptTr s)).flatten [] (16 * (k + 1)) (16 * (k + 1))
      ∧ t.work.dcOk = pumpReady s k := by
  induction attempts generalizing k s with
  | nil => exact absurd hk (Nat.not_lt_zero k)
  | cons i rest ih =>
    obtain ⟨t, ht, a, -, -, -, -, flag⟩ := pumpAttempt_sends i s (h.mono (by omega))
    have ready : t.work.dcOk = pumpReady s 0 := flag
    cases k with
    | zero =>
      refine ⟨t, ?_, a.cast (by simp) rfl rfl rfl, ready⟩
      rw [pumpLoop_cons_on ht]
      obtain last | hit := stop
      · obtain rfl : rest = [] := by simpa using last.symm
        simp [pumpLoop]
      · rw [ready, hit, if_pos rfl]
    | succ k =>
      have shift (j : Nat) : pumpReady t j = pumpReady s (j + 1) := by
        rw [pumpReady, pumpReady, a.par, a.answer]
        congr 2
        omega
      obtain ⟨u, hu, b, flag'⟩ := ih k t
        (Responsive.after (h.mono (by omega)) a) (fun j hj => by rw [shift]; exact clear _ (by omega))
        (by simpa using hk) (by rw [shift]; simpa using stop)
      have same : attemptTr t = attemptTr s := by rw [attemptTr, attemptTr, a.par]
      refine ⟨u, ?_, (a.trans b).cast ?_ rfl (by omega) (by omega), flag'.trans (shift k)⟩
      · rw [pumpLoop_cons_on ht, ready, clear 0 (by omega)]
        exact hu
      · rw [same]
        rfl

/-- BEGIN step 7 up to its verification, when the waits of its attempts end (R151). -/
theorem beginStep7_sends (k : Nat) (s : State) (h : Responsive s (16 * (k + 1)))
    (clear : ∀ j < k, pumpReady s j = false) (hk : k < 4) (stop : k + 1 = 4 ∨ pumpReady s k = true) :
    ∃ t, beginStep7 s = verify (fun t => t.work.dcOk) .powerFailure t
      ∧ Sends s t (List.replicate (k + 1) (attemptTr s)).flatten [] (16 * (k + 1)) (16 * (k + 1))
      ∧ t.work.dcOk = pumpReady s k := by
  have a := sends_setWork (fun w => { w with dcOk := false }) s
  obtain ⟨t, ht, b, flag⟩ := pumpLoop_sends (List.range Config.retryMax) k
    (setWork (fun w => { w with dcOk := false }) s) h clear (by simpa [Config.retryMax] using hk)
    (by rw [List.length_range]; exact stop)
  have loop : inOrder [act (setWork fun w => { w with dcOk := false }), pumpLoop (List.range Config.retryMax)] s
      = .on t := by
    rw [inOrder_cons, act_apply, Flow.andThen_on, inOrder_cons, ht, Flow.andThen_on, inOrder_nil]
  exact ⟨t, inOrder_snoc loop, (a.trans b).cast rfl rfl (Nat.zero_add _) (Nat.zero_add _), flag⟩

/-- BEGIN step 8 whose waits end (R152). -/
theorem beginStep8_sends (s : State) (h : Responsive s 4) :
    ∃ t, beginStep8 s = .on t
      ∧ Sends s t (writeTr 0x02 s.par.v.oeDisable ++ disableTr s.par.busSettleUs) [] 4 6 := by
  obtain ⟨t, ht, a, -⟩ := regWrite_sends Config.aOe RegData.oeDisable s h
  refine ⟨busDisable t, ?_, (a.trans (sends_busDisable t)).cast ?_ rfl rfl rfl⟩
  · simp only [beginStep8, inOrder_cons, inOrder_nil, act_apply, ht, Flow.andThen_on]
  · rw [a.par]
    rfl

/-! ## BEGIN, up to each verification -/

/-- The outline of BEGIN step 1 (R142). -/
def idleTr (us : Nat) : List Event :=
  .pin .reset false :: .pin .panelOn false :: .pin .discharge false :: .pin .border false :: .pin .cs false
    :: enableTr us

/-- The outline of BEGIN step 2 (R143). -/
def pulseTr : List Event :=
  [.delayMs 5, .pin .panelOn true, .delayMs 10, .pin .reset true, .pin .border true, .pin .cs true, .delayMs 5,
   .pin .reset false, .delayMs 5, .pin .reset true, .delayMs 5]

/-- BEGIN step 1 waits on nothing and leaves every pin low and the bus on (R142). -/
theorem beginStep1_proceeds (s : State) :
    ∃ t, beginStep1 s = .on t ∧ Proceeds s.st s t (idleTr s.par.busSettleUs) 0 2
      ∧ t.psm = s.psm ∧ t.pins = Pins.low ∧ t.busEn = true := by
  have idle := (((((Proceeds.refl s).pin .reset false).pin .panelOn false).pin .discharge false).pin .border false).pin
    .cs false
  have bus := idle.next (sends_busEnable _).proceeds
  refine ⟨_, by simp [beginStep1], bus.cast (by simp [idleTr]) rfl rfl, ?_, ?_, ?_⟩
  · simp
  · simp [Pins.set, Pins.low]
  · simp

/-- BEGIN step 2 waits on nothing and powers a panel whose pins are low (R143). -/
theorem beginStep2_proceeds (s : State) (low : s.pins = Pins.low) :
    ∃ t, beginStep2 s = .on t ∧ Proceeds s.st s t pulseTr 0 0
      ∧ t.psm = s.psm ∧ t.pins = Pins.powered ∧ t.busEn = s.busEn := by
  have up := ((((((Proceeds.refl s).delay 5).pin .panelOn true).delay 10).pin .reset true).pin .border true).pin
    .cs true
  have pulse := ((((up.delay 5).pin .reset false).delay 5).pin .reset true).delay 5
  refine ⟨_, by simp [beginStep2], pulse.cast (by simp [pulseTr]) rfl rfl, ?_, ?_, ?_⟩
  · simp
  · simp [Pins.set, low, Pins.low, Pins.powered]
  · simp

/-- BEGIN up to its ready wait, whatever the environment answers: the panel is powered and the bus is on (R141). -/
theorem begin_powersUp (s : State) :
    ∃ t, beginOp (accept s) = inOrder [beginStep3, act (setPsm .verifying), beginStep4, beginStep5, beginStep6,
        beginStep7, beginStep8, act (setPsm .ready)] t
      ∧ Proceeds .ok s t (.status .ok :: (idleTr s.par.busSettleUs ++ pulseTr)) 0 2
      ∧ t.psm = .poweringUp ∧ t.pins = Pins.powered ∧ t.busEn = true := by
  have start := ((proceeds_accept s).trans (proceeds_setStatus .ok _)).setPsm .poweringUp
  obtain ⟨t, ht, a, psm, pins, bus⟩ := beginStep1_proceeds (setPsm .poweringUp (setStatus .ok (accept s)))
  obtain ⟨u, hu, b, psm', pins', bus'⟩ := beginStep2_proceeds t pins
  refine ⟨u, ?_, ((start.next a).next b).cast (by simp) rfl rfl, psm'.trans psm, pins', bus'.trans bus⟩
  simp only [beginOp, inOrder_cons, act_apply, Flow.andThen_on, ht, hu]

/-- The ready wait that ends after `k` samples of 1: a poll delay for each of them (R145). -/
theorem beginStep3_proceeds {k : Nat} (s : State) (h : s.env.waitAt s.waitSeen = some k) :
    ∃ t, beginStep3 s = .on t ∧ Proceeds s.st s t (List.replicate k (.delayUs s.par.pollUs)) 1 0 :=
  ⟨_, waitWhileBusy_ends h, ⟨rfl, rfl, rfl, rfl, rfl, rfl, rfl, rfl⟩, rfl, rfl, rfl, rfl, rfl,
    waitEvents [.delayUs s.par.pollUs] k, rfl, outline_waitEvents _ k⟩

/-- BEGIN stands before the verification of the ID (R146). -/
theorem begin_beforeIdCheck (s : State) (h : Responsive s 5) :
    ∃ t, beginOp (accept s)
        = (verify (fun t => idPasses t.work.last) .unsupportedController t).andThen
            (inOrder [beginStep5, beginStep6, beginStep7, beginStep8, act (setPsm .ready)])
      ∧ Proceeds .ok s t (beginTr4 s) 5 6 ∧ t.work.last = s.answer 5 := by
  obtain ⟨k, hk⟩ : ∃ k, s.env.waitAt s.waitSeen = some k := Option.isSome_iff_exists.mp (h 0 (by omega))
  obtain ⟨t1, e1, a1, -⟩ := begin_powersUp s
  obtain ⟨t2, e2, a2⟩ := beginStep3_proceeds t1 (k := k) (by rw [a1.env, a1.waits]; exact hk)
  have b2 := (a1.next a2).setPsm .verifying
  obtain ⟨t3, e3, a3, last⟩ := idReads_sends (setPsm .verifying t2) (Responsive.afterProceeds (n := 4) h b2)
  have e4 : beginStep4 (setPsm .verifying t2)
      = verify (fun t => idPasses t.work.last) .unsupportedController t3 := inOrder_snoc e3
  refine ⟨t3, ?_, (b2.next a3.proceeds).cast ?_ rfl rfl, ?_⟩
  · simp only [e1, e2, e4, inOrder_cons, act_apply, Flow.andThen_on]
  · rw [setPsm_par, (a1.next a2).par, a1.par]
    simp [beginTr4, idleTr, pulseTr, hk]
  · rw [last, b2.answer]

/-- BEGIN stands before the verification of the panel, once the ID has passed (R147). -/
theorem begin_beforePanelCheck (s : State) (h : Responsive s 13) (hid : idPasses (s.answer 5) = true) :
    ∃ t, beginOp (accept s)
        = (verify (fun t => panelPasses t.work.last) .panelBroken t).andThen
            (inOrder [beginStep6, beginStep7, beginStep8, act (setPsm .ready)])
      ∧ Proceeds .ok s t (beginTr5 s) 13 14 ∧ t.work.last = s.answer 13 := by
  obtain ⟨t1, e1, a1, last1⟩ := begin_beforeIdCheck s (h.mono (by omega))
  obtain ⟨t2, e2, a2, last⟩ := panelRead_sends t1 (Responsive.afterProceeds (w := 5) (n := 8) h a1)
  have pass : idPasses t1.work.last = true := last1 ▸ hid
  have e3 : beginStep5 t1 = verify (fun t => panelPasses t.work.last) .panelBroken t2 := inOrder_snoc e2
  refine ⟨t2, ?_, (a1.next a2.proceeds).cast ?_ rfl rfl, ?_⟩
  · rw [e1, verify_on _ pass, Flow.andThen_on, inOrder_cons, e3]
  · rw [a1.par, beginTr5, List.append_assoc]
  · rw [last, a1.answer]

/-- BEGIN stands before the verification of the charge pumps, once the ID and the panel have passed, after the attempts
up to `k` (R151). -/
theorem begin_beforePowerCheck (s : State) (k : Nat)
    (h : Responsive s (43 + s.profile.channelSelect.length + 16 * (k + 1))) (hid : idPasses (s.answer 5) = true)
    (panel : panelPasses (s.answer 13) = true)
    (clear : ∀ j < k, dcdcReady s.par.dcdcMask (s.pumpAnswer j) = false) (hk : k < 4)
    (stop : k + 1 = 4 ∨ dcdcReady s.par.dcdcMask (s.pumpAnswer k) = true) :
    ∃ t r, beginOp (accept s)
        = (verify (fun t => t.work.dcOk) .powerFailure t).andThen (inOrder [beginStep8, act (setPsm .ready)])
      ∧ Proceeds .ok s t (beginTr7 s (k + 1)) (43 + s.profile.channelSelect.length + 16 * (k + 1)) r
      ∧ t.work.dcOk = dcdcReady s.par.dcdcMask (s.pumpAnswer k) := by
  obtain ⟨t1, e1, a1, last1⟩ := begin_beforePanelCheck s (h.mono (by omega)) hid
  have pass : panelPasses t1.work.last = true := last1 ▸ panel
  have prof := a1.toUntouched.profile
  obtain ⟨t2, e2, a2⟩ := beginStep6_sends t1 (Responsive.afterProceeds (by rw [prof]; exact h.mono (by omega)) a1)
  have a := a1.next a2.proceeds
  have pumps (j : Nat) : pumpReady t2 j = dcdcReady s.par.dcdcMask (s.pumpAnswer j) := by
    rw [pumpReady, a.par, a.answer, State.pumpAnswer, prof]
    congr 2
    omega
  obtain ⟨t3, e3, a3, flag⟩ := beginStep7_sends k t2
    (Responsive.afterProceeds (by rw [prof]; exact h.mono (by omega)) a) (by simpa only [pumps] using clear) hk
    (by simpa only [pumps] using stop)
  refine ⟨t3, _, ?_, (a.next a3.proceeds).cast ?_ ?_ rfl, flag.trans (pumps k)⟩
  · rw [e1, verify_on _ pass, Flow.andThen_on, inOrder_cons, e2, Flow.andThen_on, inOrder_cons, e3]
  · rw [step6Tr, attemptTr, a.par, a1.par, prof]
    simp only [beginTr7, beginTr6, attemptTr, List.append_assoc]
  · rw [prof]
    omega

/-! ## BEGIN, as it ends -/

/-- BEGIN that ends in the fault path after a stretch. -/
theorem begin_faults {c : Status} {s t : State} {o : List Event} {w r : Nat} (hc : c ≠ .ok)
    (hb : beginOp (accept s) = raise c t) (a : Proceeds .ok s t o w r) :
    ∃ u, exec .beginCmd s = .next u ∧ Untouched s u ∧ Returned s u
      ∧ u.st = c ∧ u.psm = .poweredDown ∧ u.pins = Pins.low ∧ u.busEn = false ∧ u.toff = s.toff
      ∧ u.waitSeen = s.waitSeen + w ∧ Traced s u (o ++ raiseTr c s.par.busSettleUs) := by
  obtain ⟨u, hu, b⟩ := a.raise c
  have hx : exec .beginCmd s = .next (ret u) := by
    rw [exec_beginCmd, hb, hu, Flow.finish_off]
  have hst : (ret u).st = c := b.st
  obtain ⟨ok, -⟩ | ⟨-, down⟩ := beginHasTwoOutcomes s (ret u) hx rfl
  · exact absurd (hst.symm.trans ok) hc
  · obtain ⟨psm, pins, bus⟩ := down
    exact ⟨ret u, hx, (exec_ran hx).toUntouched, b.returned, hst, psm, pins, bus,
      exec_toff (i := .beginCmd) nofun hx, b.waits, b.traced⟩

/-- Settles O44: the second ID read is the transfer 5 ahead. -/
theorem beginRaisesUnsupportedController : Obligations.BeginRaisesUnsupportedController := by
  intro s h hid
  obtain ⟨t, e, a, last⟩ := begin_beforeIdCheck s h
  have fails : idPasses t.work.last = false := last ▸ idPasses_eq_false.mpr hid
  exact begin_faults nofun (by rw [e, verify_off _ fails]; rfl) a

/-- Settles O45: the status byte is the transfer 13 ahead. -/
theorem beginRaisesPanelBroken : Obligations.BeginRaisesPanelBroken := by
  intro s h hid panel
  obtain ⟨t, e, a, last⟩ := begin_beforePanelCheck s h (idPasses_iff.mpr hid)
  have fails : panelPasses t.work.last = false := last ▸ panelPasses_eq_false.mpr panel
  exact begin_faults nofun (by rw [e, verify_off _ fails]; rfl) a

/-- Settles O46: the attempt that ends the loop is the fourth, and its ready bit is clear too. -/
theorem beginRaisesPowerFailure : Obligations.BeginRaisesPowerFailure := by
  intro s h hid panel pumps
  have clear (j : Nat) (hj : j < 4) : dcdcReady s.par.dcdcMask (s.pumpAnswer j) = false :=
    dcdcReady_eq_false.mpr (pumps j hj)
  have hw : 43 + s.profile.channelSelect.length + 16 * (3 + 1) = 107 + s.profile.channelSelect.length := by omega
  obtain ⟨t, r, e, a, flag⟩ := begin_beforePowerCheck s 3 (hw ▸ h) (idPasses_iff.mpr hid)
    (panelPasses_iff.mpr panel) (fun j hj => clear j (by omega)) (by omega) (.inl rfl)
  have fails : t.work.dcOk = false := flag.trans (clear 3 (by omega))
  exact begin_faults nofun (by rw [e, verify_off _ fails]; rfl) (hw ▸ a)

/-- Settles O43: each verification passes, attempt `k` breaks the loop, and step 8 follows. -/
theorem beginReachesReady : Obligations.BeginReachesReady := by
  intro s k hk h hid panel clear ready
  have hit : dcdcReady s.par.dcdcMask (s.pumpAnswer k) = true := dcdcReady_iff.mpr ready
  obtain ⟨t, r, e, a, flag⟩ := begin_beforePowerCheck s k (h.mono (by omega)) (idPasses_iff.mpr hid)
    (panelPasses_iff.mpr panel)
    (fun j hj => dcdcReady_eq_false.mpr (clear j hj)) hk (.inr hit)
  obtain ⟨u, e8, a8⟩ := beginStep8_sends t (Responsive.afterProceeds (h.mono (by omega)) a)
  have b := (a.next a8.proceeds).setPsm .ready
  have hx : exec .beginCmd s = .next (ret (setPsm .ready u)) := by
    rw [exec_beginCmd, e, verify_on (s := t) _ (flag.trans hit), Flow.andThen_on, inOrder_cons, e8, Flow.andThen_on]
    rfl
  obtain ⟨st, psm, pins, bus⟩ | ⟨fault, -⟩ := beginHasTwoOutcomes s _ hx rfl
  · have ran := exec_ran hx
    refine ⟨_, hx, ran.toUntouched, b.returned, st, psm, pins, bus, exec_toff (i := .beginCmd) nofun hx, ran.cap2,
      ran.cap3, b.clockSeen, b.waits.trans (by omega), ?_⟩
    have tr := b.traced
    rw [a.par, ← List.append_assoc] at tr
    exact tr
  · exact absurd b.st fault

/-! ## BEGIN in a ready wait that never ends -/

/-- A sample at a wait that never ends writes the trace only (R145, R261). -/
theorem sampleBusy_eq (polled : Bool) (s : State) :
    ∃ evs, Sequencer.sampleBusy polled s = { s with trace := s.trace ++ evs } := by
  cases polled with
  | true => exact ⟨[.delayUs s.par.pollUs, .busy true], by simp [Sequencer.sampleBusy, delayUs, emit]⟩
  | false => exact ⟨[.busy true], rfl⟩

theorem goOn_of_busyWait {polled : Bool} {s : State} (h : s.pos = .busyWait polled) :
    Sequencer.goOn s = .next (Sequencer.sampleBusy polled s) := by
  simp only [Sequencer.goOn, h]

/-- Settles O47: BEGIN up to its ready wait, which then holds the position; and each step from there is one sample. -/
theorem beginHangsInReadyWait : Obligations.BeginHangsInReadyWait := by
  refine ⟨fun s h => ?_, fun s polled hr hp hq => ?_⟩
  · obtain ⟨t, e, a, psm, pins, bus⟩ := begin_powersUp s
    have hw : t.env.waitAt t.waitSeen = none := by
      rw [a.env, a.waits]
      exact h
    have hx : exec .beginCmd s = .next { t with
        run := true
        pos := .busyWait true
        waitSeen := t.waitSeen + 1
        trace := t.trace ++ [.busy true] } := by
      rw [exec_beginCmd, e, inOrder_cons, beginStep3, waitWhileBusy_hangs hw]
      rfl
    exact ⟨_, hx, (exec_ran hx).toUntouched, rfl, rfl, a.st, psm, pins, bus, congrArg (· + 1) a.waits⟩
  · obtain ⟨evs, he⟩ := sampleBusy_eq polled s
    refine ⟨evs, ?_⟩
    rw [step_of_run hr hq, goOn_of_busyWait hp, he]

/-! ## END -/

/-- A fixed-value pass after a stretch, when its waits end (R190). -/
theorem Proceeds.pass {c : Status} {s t : State} {o : List Event} {w r : Nat} (a : Proceeds c s t o w r) (v : Byte)
    (h : Responsive s (w + s.lines * s.lineWaits)) :
    ∃ u, framePass v t = .on u
      ∧ Proceeds c s u (o ++ passTr s v) (w + s.lines * s.lineWaits) (r + s.lines * s.lineXfers) := by
  have lines := a.toUntouched.lines
  have waits := a.toUntouched.lineWaits
  obtain ⟨u, hu, b, -⟩ := framePass_sends v t (Responsive.afterProceeds (by rw [lines, waits]; exact h) a)
  rw [a.toUntouched.passTr, lines, waits, a.toUntouched.lineXfers] at b
  exact ⟨u, hu, a.next b.proceeds⟩

/-- END's flush whose waits end: a border pulse on the 2.7 inch panel, three passes on the others (R154). -/
theorem endFlush_proceeds (s : State) (h : Responsive s (s.flushLines * s.lineWaits)) :
    ∃ t, endFlush s = .on t
      ∧ Proceeds s.st s t (flushTr s) (s.flushLines * s.lineWaits) (s.flushLines * s.lineXfers) := by
  by_cases size : s.size = .s270
  · simp only [endFlush, flushTr, State.flushLines, if_pos size, Nat.zero_mul]
    have pulse := ((((Proceeds.refl s).delay 25).pin .border false).delay 250).pin .border true
    exact ⟨_, by simp, pulse.cast (by simp) rfl rfl⟩
  · simp only [endFlush, flushTr, State.flushLines, if_neg size, Nat.mul_assoc] at h ⊢
    obtain ⟨t1, e1, a1⟩ := (Proceeds.refl s).pass 0xFF (h.mono (by omega))
    obtain ⟨t2, e2, a2⟩ := (a1.delay 40).pass 0xAA (h.mono (by omega))
    obtain ⟨t3, e3, a3⟩ := (a2.delay 200).pass 0x00 (h.mono (by omega))
    refine ⟨delayMs 25 t3, ?_, (a3.delay 25).cast (by simp) (by omega) (by omega)⟩
    simp only [inOrder_cons, inOrder_nil, act_apply, Flow.andThen_on, e1, e2, e3]

/-- END stands before its re-verification, after the flush and the status read (R153, R154, R155). -/
theorem end_beforeCheck (s : State) (h : Responsive s (s.flushLines * s.lineWaits + 4)) :
    ∃ t r, endOp (accept s)
        = (verify (fun t => dcdcReady t.par.dcdcMask t.work.last) .powerFailure t).andThen
            (inOrder [endTeardown, act powerOff])
      ∧ Proceeds s.st s t (endTr s) (s.flushLines * s.lineWaits + 4) r ∧ t.work.last = s.endAnswer := by
  obtain ⟨t1, e1, a1⟩ : ∃ t, endFlush (accept s) = .on t
      ∧ Proceeds s.st s t (flushTr s) (s.flushLines * s.lineWaits) (s.flushLines * s.lineXfers) := by
    obtain ⟨t, e, a⟩ := endFlush_proceeds (accept s) (h.mono (Nat.le_add_right _ _))
    exact ⟨t, e, ((proceeds_accept s).trans a).cast rfl (Nat.zero_add _) (Nat.zero_add _)⟩
  have a2 := a1.next (sends_busEnable t1).proceeds
  obtain ⟨t3, e3, a3, -, -, -, -, last, -⟩ := regRead_sends Config.aStat (busEnable t1)
    (Responsive.afterProceeds (n := 4) h a2)
  have read : inOrder [act busEnable, regRead Config.aStat] t1 = .on t3 := by
    rw [inOrder_cons, act_apply, Flow.andThen_on, inOrder_cons, e3, Flow.andThen_on, inOrder_nil]
  have e4 : endRecheck t1 = verify (fun t => dcdcReady t.par.dcdcMask t.work.last) .powerFailure t3 :=
    inOrder_snoc read
  refine ⟨t3, _, ?_, (a2.next a3.proceeds).cast ?_ rfl rfl, ?_⟩
  · rw [endOp, inOrder_cons, e1, Flow.andThen_on, inOrder_cons, e4]
  · rw [busEnable_par, a1.par]
    rfl
  · rw [last, a2.answer]
    rfl

/-- END's teardown whose waits end (R156). -/
theorem endTeardown_sends (s : State) (h : Responsive s 36) :
    ∃ t, endTeardown s = .on t ∧ Sends s t (teardownTr s) [] 36 36 := by
  obtain ⟨t, e, a⟩ := regWrites_sends [(Config.aLatch, RegData.latchOn), (Config.aLatch, RegData.latchOff),
    (Config.aOe, RegData.oeOffHp), (Config.aCp, RegData.cpOff1), (Config.aCp, RegData.cpOff2),
    (Config.aCp, RegData.cpOff3), (Config.aOsc, RegData.oscOff), (Config.aPwr, RegData.dischOn)] s
    (Responsive.mono (m := 32) h (by omega))
  have b := a.trans (sends_emit (.delayMs 120) t)
  obtain ⟨u, e', a', -⟩ := regWrite_sends Config.aPwr RegData.dischOff (delayMs 120 t)
    (Responsive.after (w := 32) (n := 4) h b)
  have held : inOrder _ s = .on (delayMs 120 t) := (inOrder_snoc e).trans (act_apply (delayMs 120) t)
  refine ⟨u, (inOrder_snoc held).trans e', (b.trans a').cast ?_ rfl rfl rfl⟩
  rw [delayMs_par, a.par]
  simp [teardownTr, Config.aLatch, Config.aOe, Config.aCp, Config.aOsc, Config.aPwr, outline, Event.outlined]

/-- Settles O50: the status byte is the answer to END's one status read. -/
theorem endRaisesPowerFailure : Obligations.EndRaisesPowerFailure := by
  intro s h clear
  obtain ⟨t, r, e, a, last⟩ := end_beforeCheck s h
  have fails : dcdcReady t.par.dcdcMask t.work.last = false := by
    rw [last, a.par, dcdcReady_eq_false]
    exact clear
  obtain ⟨u, hu, b⟩ := a.raise .powerFailure
  have hx : exec .endCmd s = .next (ret u) := by
    rw [exec_endCmd, e, verify_off (s := t) _ fails, hu, Flow.andThen_off, Flow.finish_off]
  obtain ⟨-, psm, pins, bus⟩ := endAlwaysPowersDown s _ hx rfl
  exact ⟨_, hx, (exec_ran hx).toUntouched, b.returned, b.st, psm, pins, bus, exec_toff (i := .endCmd) nofun hx,
    b.waits, b.traced⟩

/-- Settles O49: the re-verification passes, and the teardown and `power_off` follow. -/
theorem endPowersDown : Obligations.EndPowersDown := by
  intro s h ready
  obtain ⟨t, r, e, a, last⟩ := end_beforeCheck s (h.mono (by omega))
  have pass : dcdcReady t.par.dcdcMask t.work.last = true := by
    rw [last, a.par, dcdcReady_iff]
    exact ready
  obtain ⟨u, e', b⟩ := endTeardown_sends t (Responsive.afterProceeds (n := 36) h a)
  have c := (a.next b.proceeds).next (powerOff_proceeds u)
  have hx : exec .endCmd s = .next (ret (powerOff u)) := by
    rw [exec_endCmd, e, verify_on (s := t) _ pass, Flow.andThen_on, inOrder_cons, e', Flow.andThen_on]
    rfl
  obtain ⟨-, psm, pins, bus⟩ := endAlwaysPowersDown s _ hx rfl
  have ran := exec_ran hx
  refine ⟨_, hx, ran.toUntouched, c.returned, c.st, psm, pins, bus, exec_toff (i := .endCmd) nofun hx, ran.cap2,
    ran.cap3, c.clockSeen, c.waits, ?_⟩
  have tr := c.traced
  rw [teardownTr, (a.next b.proceeds).par, a.par] at tr
  exact tr

end Sys2Proof.Machine

/-! The Line Encoder: the bits of the pixel bytes (R176 to R178), the scan bytes (R179), and LINE when its waits end
(R171 to R175, R180 to R182). -/

namespace Sys2Proof.Machine

/-! ## The pixel bytes, bit by bit -/

/-- A pixel encoder: in each pair of the byte it sends, the high bit is 1 and the low bit, at place `i`, is the pixel
bit `col i`, complemented in the inverse stage (R92). -/
structure PairEncoder (enc : Byte → Stage → Byte) (col : Nat → Nat) : Prop where
  col_lt : ∀ {i : Nat}, i < 8 → col i < 8
  bit : ∀ (x : Byte) (st : Stage) {i : Nat}, i < 8 →
    (enc x st).getLsbD i = (decide (i % 2 = 1) || (x.getLsbD (col i) ^^ decide (st = .inverse)))

/-- 0xAA is the high bits of the four pairs. -/
theorem getLsbD_pairHighs : ∀ {i : Nat}, i < 8 → (0xAA#8).getLsbD i = decide (i % 2 = 1) := by decide

/-- 0x55 is the low bits of the four pairs. -/
theorem getLsbD_pairLows : ∀ {i : Nat}, i < 8 → (0x55#8).getLsbD i = decide (i % 2 = 0) := by decide

/-- `odd` sends the pixel bits 6, 4, 2, 0 in their places (R176). -/
theorem odd_pairEncoder : PairEncoder odd id where
  col_lt := id
  bit x st i hi := by
    have high := getLsbD_pairHighs hi
    have low := getLsbD_pairLows hi
    obtain h | h := Nat.mod_two_eq_zero_or_one i
    · cases st <;> simp [odd, high, low, h]
    · cases st <;> simp [odd, high, h]

/-- Before the pairs are reversed, the low bit of a pair of an even-pixel byte is the pixel one place up (R177). -/
theorem getLsbD_pre (x : Byte) (st : Stage) {i : Nat} (hi : i < 8) :
    (pre x st).getLsbD i = (decide (i % 2 = 1) || (x.getLsbD (1 + i) ^^ decide (st = .inverse))) := by
  have high := getLsbD_pairHighs hi
  obtain h | h := Nat.mod_two_eq_zero_or_one i
  · have above : (0xAA#8).getLsbD (1 + i) = true :=
      (getLsbD_pairHighs (by omega)).trans (decide_eq_true (by omega))
    cases st <;> simp [pre, high, h, above]
  · cases st <;> simp [pre, high, h]

/-- Reversal moves pair `k` to pair `3 - k` and keeps the order within the pair (R177). -/
theorem getLsbD_rev (v : Byte) {i : Nat} (hi : i < 8) : (rev v).getLsbD i = v.getLsbD (2 * (3 - i / 2) + i % 2) := by
  interval_cases i <;> simp [rev]

/-- `even` sends the pixel bits 1, 3, 5, 7, the pairs reversed (R177). -/
theorem even_pairEncoder : PairEncoder even (7 - ·) where
  col_lt _ := by omega
  bit x st i hi := by
    rw [even, getLsbD_rev _ hi, getLsbD_pre _ _ (by omega), Nat.mul_add_mod, Nat.mod_mod]
    obtain h | h := Nat.mod_two_eq_zero_or_one i
    · rw [show 1 + (2 * (3 - i / 2) + i % 2) = 7 - i by omega]
    · simp [h]

/-- Reversing the pairs twice gives the byte back (R177). -/
theorem rev_rev (v : Byte) : rev (rev v) = v := by
  refine BitVec.eq_of_getLsbD_eq fun i hi => ?_
  rw [getLsbD_rev _ hi, getLsbD_rev _ (by omega)]
  congr 1
  omega

namespace PairEncoder
variable {enc : Byte → Stage → Byte} {col : Nat → Nat} (c : PairEncoder enc col)
include c

/-- The two bits of pair `k`, in the two stages. -/
theorem pair (x : Byte) {k : Nat} (hk : k < 4) :
    (enc x .normal).getLsbD (2 * k + 1) = true ∧ (enc x .normal).getLsbD (2 * k) = x.getLsbD (col (2 * k))
      ∧ (enc x .inverse).getLsbD (2 * k + 1) = true
      ∧ (enc x .inverse).getLsbD (2 * k) = !x.getLsbD (col (2 * k)) := by
  have high (st : Stage) := c.bit x st (i := 2 * k + 1) (by omega)
  have low (st : Stage) := c.bit x st (i := 2 * k) (by omega)
  exact ⟨by simp [high], by simp [low], by simp [high], by simp [low]⟩

/-- R178 (a). -/
theorem and_pairHighs (x : Byte) (st : Stage) : enc x st &&& 0xAA = 0xAA :=
  BitVec.eq_of_getLsbD_eq fun i hi => by
    have high := getLsbD_pairHighs hi
    obtain h | h := Nat.mod_two_eq_zero_or_one i <;> simp [c.bit x st hi, high, h]

/-- R178 (b). -/
theorem inverse_eq_normal_complement (x : Byte) : enc x .inverse = enc (x ^^^ 0xFF) .normal :=
  BitVec.eq_of_getLsbD_eq fun i hi => by
    have ones : (0xFF#8).getLsbD (col i) = true := (by decide : ∀ j < 8, (0xFF#8).getLsbD j = true) _ (c.col_lt hi)
    simp [c.bit _ _ hi, ones]

/-- R178 (c). -/
theorem normal_xor_inverse (x : Byte) : enc x .normal ^^^ enc x .inverse = 0x55 :=
  BitVec.eq_of_getLsbD_eq fun i hi => by
    have low := getLsbD_pairLows hi
    obtain h | h := Nat.mod_two_eq_zero_or_one i <;> simp [c.bit x _ hi, low, h]

/-- R178 (d): a mask that keeps the columns sent makes no difference. -/
theorem eq_of_mask {m : Byte} (hm : ∀ i < 8, i % 2 = 0 → m.getLsbD (col i) = true) (x : Byte) (st : Stage) :
    enc x st = enc (x &&& m) st :=
  BitVec.eq_of_getLsbD_eq fun i hi => by
    rw [c.bit x st hi, c.bit (x &&& m) st hi, BitVec.getLsbD_and]
    obtain h | h := Nat.mod_two_eq_zero_or_one i
    · rw [hm i hi h, Bool.and_true]
    · simp [h]

end PairEncoder

/-- Settles O25: the pairs of the two encoders. -/
theorem encodedPairs : Obligations.EncodedPairs := fun x =>
  ⟨fun _ hk => odd_pairEncoder.pair x hk, fun _ hk => even_pairEncoder.pair x hk, rev_rev x⟩

/-- Settles O26: (a) to (d) hold of every encoder of pairs, (e) is four bytes. -/
theorem encoderProperties : Obligations.EncoderProperties :=
  ⟨fun x st => ⟨odd_pairEncoder.and_pairHighs x st, even_pairEncoder.and_pairHighs x st⟩,
    fun x => ⟨odd_pairEncoder.inverse_eq_normal_complement x, even_pairEncoder.inverse_eq_normal_complement x⟩,
    fun x => ⟨odd_pairEncoder.normal_xor_inverse x, even_pairEncoder.normal_xor_inverse x⟩,
    fun x st => ⟨odd_pairEncoder.eq_of_mask (by decide) x st, even_pairEncoder.eq_of_mask (by decide) x st⟩,
    by decide⟩

/-! ## The scan bytes (R179) -/

theorem scanPos_of_lt {lines index : Nat} (h : index < lines) :
    scanPos lines index = ((lines - index - 1) / 4 : Nat) := by
  rw [scanPos]
  omega

/-- The division is a floor: an index at or above the line count has no place, also just above it (D24). -/
theorem scanPos_neg {lines index : Nat} (h : lines ≤ index) : scanPos lines index < 0 := by
  rw [scanPos]
  omega

theorem scanMarker_ne_zero (index : Nat) : scanMarker index ≠ 0 :=
  (by decide : ∀ r < 4, (0x03#8) <<< (2 * r) ≠ 0) (index % 4) (Nat.mod_lt _ (by omega))

theorem scanByte_at {lines index b : Nat} (h : (b : Int) = scanPos lines index) :
    scanByte lines index b = scanMarker index := if_pos h

theorem scanByte_off {lines index b : Nat} (h : (b : Int) ≠ scanPos lines index) : scanByte lines index b = 0 :=
  if_neg h

/-- Settles O27: the one scan byte that carries the marker is the one at `scanPos`. -/
theorem scanActivatesOneRow : Obligations.ScanActivatesOneRow := by
  refine fun bps index => ⟨fun h => ?_, fun h b _ => ?_⟩
  · have pos := scanPos_of_lt h
    have marker := scanByte_at pos.symm
    refine ⟨(4 * bps - index - 1) / 4, by omega, rfl, marker, marker ▸ scanMarker_ne_zero index, fun b _ ne => ?_⟩
    exact scanByte_off fun eq => ne (by omega)
  · have neg := scanPos_neg h
    exact scanByte_off (by omega)

/-! ## LINE -/

theorem exec_line (s : State) : exec .line s = .next (lineOp (accept s).work.lineArgs (accept s)).finish := rfl

/-- Settles O28: LINE is `lineOp` of the latched operands, and then the return. -/
theorem lineCompletes : Obligations.LineCompletes := by
  intro s h
  obtain ⟨t, e, a, pins, bus, -, cap, -⟩ := lineOp_sends (accept s).work.lineArgs (accept s) h
  obtain ⟨drawn, returned, -⟩ := a.ofAccept cap
  obtain ⟨evs, trace, out, reads⟩ := a.events
  refine ⟨ret t, evs, by rw [exec_line, e, Flow.finish_on], drawn, returned, trace, out, reads, ?_, bus, a.xfers,
    a.waits, a.clockSeen⟩
  rw [ret_pins, pins]

/-- The data frame is the only part of LINE's outline that its operands reach (R171). -/
theorem lineTr_of_lineBytes {s : State} {a : LineArgs} {bytes : List Byte} (h : lineBytes s a = bytes) :
    lineTr s a = enableTr s.par.busSettleUs ++ frameTr [0x70, 0x0A] ++ frameTr bytes
      ++ writeTr 0x02 s.par.v.oeCommit ++ disableTr s.par.busSettleUs := by
  rw [lineTr, h]

/-- The outline of a fixed fill does not depend on the stage, nor on the address (R173). -/
theorem lineTr_fixed {a : LineArgs} (h : a.usesData = false) (s : State) :
    lineTr s a = lineTr s (fixedLine a.index a.value .normal a.border) :=
  lineTr_of_lineBytes
    ((lineBytes_fixed h s).trans (lineBytes_fixed (a := fixedLine a.index a.value .normal a.border) rfl s).symm)

/-- LINE with `usesData = 0`: no read, and the outline of the fixed line of its operands (R173). -/
theorem line_fixedFill (s : State) (hd : s.args.usesData = false) (h : Responsive s s.lineWaits) :
    ∃ t evs, exec .line s = .next t ∧ t.trace = s.trace ++ evs ∧ memAddrs evs = []
      ∧ outline evs = lineTr s (fixedLine s.args.index.toNat s.args.value .normal s.args.border)
      ∧ t.waitSeen = s.waitSeen + s.lineWaits := by
  obtain ⟨t, evs, e, -, -, trace, out, reads, -, -, -, waits, -⟩ := lineCompletes s h
  exact ⟨t, evs, e, trace, reads.trans (lineReads_fixed hd s), out.trans (lineTr_fixed hd s), waits⟩

/-- A field of a word is its bits. -/
theorem extractLsb'_congr {p q : Word} {start len : Nat}
    (h : ∀ k, start ≤ k → k < start + len → p.getLsbD k = q.getLsbD k) :
    p.extractLsb' start len = q.extractLsb' start len := by
  refine BitVec.eq_of_getLsbD_eq fun i hi => ?_
  rw [BitVec.getLsbD_extractLsb', BitVec.getLsbD_extractLsb', h _ (by omega) (by omega)]

/-- Settles O29: `ARG_PIX` bit 16 is in none of the operands that a fixed fill sends. -/
theorem fixedFillIgnoresStage : Obligations.FixedFillIgnoresStage := by
  intro s p hd hp h
  have value : Args.value { s.args with pix := p } = s.args.value := extractLsb'_congr fun k _ _ => hp k (by omega)
  have border : Args.border { s.args with pix := p } = s.args.border := extractLsb'_congr fun k _ _ => hp k (by omega)
  have usesData : Args.usesData { s.args with pix := p } = false := (hp 17 (by omega)).trans hd
  have sentTr := lineTr_of_lineBytes
    (lineBytes_fixed (a := fixedLine s.args.index.toNat s.args.value .normal s.args.border) rfl s)
  obtain ⟨t, evs, e, trace, reads, out, waits⟩ := line_fixedFill s hd h
  obtain ⟨t', evs', e', trace', reads', out', waits'⟩ :=
    line_fixedFill { s with args := { s.args with pix := p } } usesData h
  rw [value, border] at out'
  exact ⟨t, t', evs, evs', e, e', trace, trace', reads, reads', out.trans sentTr, out'.trans sentTr, waits, waits'⟩

end Sys2Proof.Machine

/-! Elapsed time (R192), and the visits of a sweep whose step is not 0 (R197, R201, R202): its blocks, written as a
range of block starts, and what is visited where. -/

namespace Sys2Proof.Machine

/-! ## Elapsed time -/

/-- Settles O30: when the second sample is the smaller one, the clock has wrapped once. -/
theorem elapsedIsModular : Obligations.ElapsedIsModular := by
  intro w t0 t1 h0 h1
  rw [elapsed]
  generalize 2 ^ w = m at *
  split
  · rw [Int.emod_eq_of_lt (by omega) (by omega)]
    omega
  · rw [Int.emod_eq_add_self_emod, Int.emod_eq_of_lt (by omega) (by omega)]
    omega

/-! ## The blocks of a pass -/

/-- The block starts of a pass are an arithmetic progression, as long as the loop condition holds (R197). -/
theorem blockStarts_eq_map {total step : Nat} (n fuel : Nat) (line : Int)
    (below : ∀ j < n, line + j * step < total + step) (past : (total : Int) + step ≤ line + n * step) (hf : n ≤ fuel) :
    blockStarts total step fuel line = (List.range n).map fun j : Nat => line + j * step := by
  induction n generalizing fuel line with
  | zero =>
    cases fuel with
    | zero => rfl
    | succ fuel => exact if_neg (by omega)
  | succ n ih =>
    obtain ⟨fuel, rfl⟩ := Nat.exists_eq_succ_of_ne_zero (n := fuel) (by omega)
    have shift (j : Nat) : line + (j + 1 : Nat) * step = line + step + j * step := by
      push_cast
      rw [Int.add_mul]
      omega
    have first := below 0 (by omega)
    rw [blockStarts, if_pos (by omega), List.range_succ_eq_map, List.map_cons, List.map_map,
      ih fuel (line + step) (fun j hj => shift j ▸ below (j + 1) (by omega)) (shift n ▸ past) (by omega)]
    simp only [Function.comp_def, Nat.succ_eq_add_one, shift]
    simp

namespace SweepParams

/-- The number of blocks of a pass (R201). -/
def blocks (q : SweepParams) (total : Nat) : Nat := (total + q.block + q.step - 1) / q.step

/-- The start of block `j` of a pass (R197). -/
def start (q : SweepParams) (j : Nat) : Int := (q.step : Int) - q.block + j * q.step

section
variable {q : SweepParams} (hs : 1 ≤ q.step)
include hs

theorem lt_blocks_iff {total j : Nat} : j < q.blocks total ↔ j * q.step < total + q.block := by
  rw [blocks, ← Nat.succ_le_iff, Nat.le_div_iff_mul_le (by omega), Nat.succ_mul]
  omega

theorem start_lt_start {i j : Nat} (h : i < j) : q.start i < q.start j := by
  have : (i : Int) * q.step < j * q.step := Int.mul_lt_mul_of_pos_right (by omega) (by omega)
  rw [start, start]
  omega

/-- The loop over block starts runs once for each block (R197, R201). -/
theorem blockStarts_eq (total : Nat) :
    blockStarts total q.step (total + q.block) ((q.step : Int) - q.block)
      = (List.range (q.blocks total)).map q.start := by
  refine blockStarts_eq_map _ _ _ (fun j hj => ?_) ?_ ?_
  · have := (lt_blocks_iff hs).mp hj
    zify at this
    omega
  · have := mt (lt_blocks_iff hs).mpr (Nat.lt_irrefl (q.blocks total))
    zify at this
    omega
  · refine Nat.le_of_not_lt fun h => ?_
    have := (lt_blocks_iff hs).mp h
    have := Nat.le_mul_of_pos_right (total + q.block) hs
    omega

/-- The spots of a sweep by pass, block and offset (R197). -/
theorem spots_eq (total : Nat) : q.spots total = (List.range q.rep).flatMap fun n =>
    (List.range (q.blocks total)).flatMap fun j => (List.range q.block).map fun off => ⟨n, q.start j, off⟩ := by
  simp only [spots, blockStarts_eq hs, List.flatMap_map]

theorem mem_spots {total : Nat} {p : Spot} : p ∈ q.spots total ↔
    p.n < q.rep ∧ p.off < q.block ∧ ∃ j, j * q.step < total + q.block ∧ p.line = q.start j := by
  rw [spots_eq hs]
  simp only [List.mem_flatMap, List.mem_map, List.mem_range, lt_blocks_iff hs]
  constructor
  · rintro ⟨n, hn, j, hj, off, ho, rfl⟩
    exact ⟨hn, ho, j, hj, rfl⟩
  · rintro ⟨hn, ho, j, hj, hl⟩
    exact ⟨p.n, hn, j, hj, p.off, ho, by rw [← hl]⟩

end

end SweepParams

/-- Settles O31: each pass has the same blocks, and each block the same number of offsets. -/
theorem sweepVisitCount : Obligations.SweepVisitCount := by
  intro rep step block total hs
  rw [SweepParams.visits, List.length_map, SweepParams.spots_eq hs]
  simp [List.length_flatMap, SweepParams.blocks, Nat.mul_assoc]

/-! ## What is sent where -/

/-- A visit sends a line of the panel, settle or real, exactly at that position (R197). -/
theorem Spot.visit_at_iff {p : Spot} {rep total q : Nat} :
    p.visit rep total = .settle q ∨ p.visit rep total = .real q ↔ p.pos = q ∧ q ≤ total := by
  rw [visit]
  split
  · simp only [reduceCtorEq, or_self, false_iff]
    omega
  · split <;> simp only [Visit.settle.injEq, Visit.real.injEq, reduceCtorEq, or_false, false_or] <;> omega

/-- The first visit of a block in the last pass is a settle line, where it is on the panel (R197). -/
theorem Spot.visit_settles {p : Spot} {rep total q : Nat} (hp : p.pos = q) (hq : q ≤ total) (ho : p.off = 0)
    (hn : p.n + 1 = rep) : p.visit rep total = .settle q := by
  rw [visit, if_neg (by omega), if_pos ⟨ho, hn⟩, hp, Int.toNat_natCast]

/-- Settles O32: position 0 lies before the first block when the block is smaller than the step; otherwise position `q`
is at offset `(q + block - step) mod step` of block `(q + block - step) / step`. -/
theorem sweepCoversPanel : Obligations.SweepCoversPanel := by
  intro rep step block total hs ht
  have covered (q : Nat) : (Visit.settle q ∈ (SweepParams.mk rep step block).visits total
        ∨ Visit.real q ∈ (SweepParams.mk rep step block).visits total)
      ↔ ∃ p ∈ (SweepParams.mk rep step block).spots total, p.pos = q ∧ q ≤ total := by
    simp only [SweepParams.visits, List.mem_map, ← exists_or, ← and_or_left, Spot.visit_at_iff]
  simp only [covered, SweepParams.mem_spots (q := ⟨rep, step, block⟩) hs, SweepParams.start]
  constructor
  · intro h
    obtain ⟨p, ⟨hn, ho, j, -, hl⟩, hp, -⟩ := h 0 ht
    have : 0 ≤ (j : Int) * step := by positivity
    rw [Spot.pos] at hp
    omega
  · rintro ⟨hr, hb, hsb⟩ q hq
    obtain ⟨j, off, ho, split⟩ : ∃ j off, off < step ∧ j * step + off = q + block - step :=
      ⟨_, _, Nat.mod_lt _ hs, Nat.div_add_mod' _ _⟩
    refine ⟨⟨0, step - block + j * step, off⟩, ⟨hr, ho.trans_le hsb, j, by omega, rfl⟩, ?_, hq.le⟩
    show (step : Int) - block + j * step + off = q
    zify [hsb.trans (Nat.le_add_left block q)] at split
    omega

/-! ## The order of the visits -/

/-- The order of the sweep's three loops (R197). -/
def Spot.Before (p p' : Spot) : Prop :=
  p.n < p'.n ∨ p.n = p'.n ∧ (p.line < p'.line ∨ p.line = p'.line ∧ p.off < p'.off)

theorem SweepParams.spots_ordered {q : SweepParams} (hs : 1 ≤ q.step) (total : Nat) :
    (q.spots total).Pairwise Spot.Before := by
  rw [spots_eq hs]
  refine List.pairwise_flatMap.mpr ⟨fun n _ => List.pairwise_flatMap.mpr ⟨fun j _ => ?_, ?_⟩, ?_⟩
  · exact List.pairwise_map.mpr (List.pairwise_lt_range.imp fun h => .inr ⟨rfl, .inr ⟨rfl, h⟩⟩)
  · refine List.pairwise_lt_range.imp fun h p hp p' hp' => ?_
    obtain ⟨_, _, rfl⟩ := List.mem_map.mp hp
    obtain ⟨_, _, rfl⟩ := List.mem_map.mp hp'
    exact .inr ⟨rfl, .inl (start_lt_start hs h)⟩
  · refine List.pairwise_lt_range.imp fun h p hp p' hp' => ?_
    simp only [List.mem_flatMap, List.mem_map] at hp hp'
    obtain ⟨_, _, _, _, rfl⟩ := hp
    obtain ⟨_, _, _, _, rfl⟩ := hp'
    exact .inl h

/-- A position congruent to the first block start, modulo the step, starts a block (R201). -/
theorem SweepParams.exists_start_eq {q : SweepParams} (hs : 1 ≤ q.step) (hb : 1 ≤ q.block) {pos : Nat}
    (grid : ((pos : Int) - ((q.step : Int) - q.block)) % q.step = 0) : ∃ j, q.start j = pos := by
  obtain ⟨m, hm⟩ := Int.dvd_of_emod_eq_zero grid
  have : -1 < m := lt_of_mul_lt_mul_left (a := (q.step : Int)) (by omega) (by omega)
  obtain ⟨j, rfl⟩ := Int.eq_ofNat_of_zero_le (a := m) (by omega)
  refine ⟨j, ?_⟩
  rw [start, Int.mul_comm, ← hm]
  exact add_sub_cancel _ _

/-- After the first spot of a block, the spots of the same pass lie beyond it (R197). -/
theorem Spot.Before.beyond {p p' : Spot} (h : p.Before p') (ho : p.off = 0) (hn : p'.n ≤ p.n) : p.pos < p'.pos := by
  rw [Spot.Before] at h
  rw [Spot.pos, Spot.pos]
  omega

/-- Settles O33: the position starts a block of the last pass, and every spot after that one lies beyond it. -/
theorem sweepEndsOnSettleLine : Obligations.SweepEndsOnSettleLine := by
  intro rep step block total q hr hs hb hq grid
  have mem_spots {p : Spot} := SweepParams.mem_spots (q := ⟨rep, step, block⟩) hs (total := total) (p := p)
  obtain ⟨j, start⟩ := SweepParams.exists_start_eq (q := ⟨rep, step, block⟩) hs hb grid
  have inside : j * step < total + block := by
    change (step : Int) - block + j * step = q at start
    zify
    omega
  have pos : (⟨rep - 1, q, 0⟩ : Spot).pos = q := Int.add_zero _
  have visited : (⟨rep - 1, q, 0⟩ : Spot) ∈ (SweepParams.mk rep step block).spots total :=
    mem_spots.mpr ⟨Nat.sub_lt hr Nat.one_pos, hb, j, inside, start.symm⟩
  obtain ⟨before, after, split⟩ := List.append_of_mem visited
  have ordered := SweepParams.spots_ordered (q := ⟨rep, step, block⟩) hs total
  rw [split] at ordered
  obtain ⟨-, ordered, -⟩ := List.pairwise_append.mp ordered
  have elsewhere : ∀ p ∈ after, ¬ (p.visit rep total = .settle q ∨ p.visit rep total = .real q) := by
    intro p hp
    have hn : p.n < rep := (mem_spots.mp (by rw [split]; simp [hp])).1
    have := ((List.pairwise_cons.mp ordered).1 p hp).beyond rfl (Nat.le_sub_one_of_lt hn)
    rw [Spot.visit_at_iff]
    omega
  have none_after : (after.map (·.visit rep total)).filter (fun v => v = Visit.settle q ∨ v = Visit.real q) = [] := by
    simpa [List.filter_eq_nil_iff] using elsewhere
  rw [SweepParams.visits, split, List.map_append, List.map_cons,
    Spot.visit_settles pos hq rfl (Nat.sub_add_cancel hr), List.filter_append, List.filter_cons_of_pos (by simp),
    none_after]
  simp

end Sys2Proof.Machine

/-! FRAME_FIXED_13 and FRAME_DATA_13: a sweep that ends (R196 to R200), or one that does not (R203, R263). -/

namespace Sys2Proof.Machine

theorem exec_frameFixed13 (s : State) : exec .frameFixed13 s
    = .next (sweepOp (sweepParams s.band s.args.stage)
        (fun p => fixedLine p s.args.value s.args.stage s.par.borderDefault) (accept s)).finish := rfl

theorem exec_frameData13 (s : State) : exec .frameData13 s
    = .next (sweepOp (sweepParams s.band s.args.stage)
        (fun p => imageLine (s.args.base s.par.addrBits) s.bpl s.par.addrBits p s.args.stage s.par.borderDefault)
        (accept s)).finish := rfl

/-! ## A sweep that ends -/

theorem Untouched.sweepTr {s t : State} (h : Untouched s t) (q : SweepParams) (real : Nat → LineArgs) :
    sweepTr t q real = sweepTr s q real := by
  simp only [Machine.sweepTr, h.lines, h.par, h.lineTr]

/-- A command whose operation is a sweep that ends returns with the LINEs of the visits made, when its waits end
(R197). -/
theorem sweep_returns {q : SweepParams} {s : State} (real : Nat → LineArgs)
    (ends : 1 ≤ q.step ∨ q.rep = 0 ∨ s.lines + q.block = 0)
    (h : Responsive s ((q.visits s.lines).length * s.lineWaits)) :
    let n := (q.visits s.lines).length
    ∃ t, (sweepOp q real (accept s)).finish = t ∧ Drawn s t ∧ Returned s t ∧ Traced s t (sweepTr s q real)
      ∧ (t.pins.cs = if n = 0 then s.pins.cs else true) ∧ (t.busEn = if n = 0 then s.busEn else false)
      ∧ t.rxSeen = s.rxSeen + n * s.lineXfers ∧ t.waitSeen = s.waitSeen + n * s.lineWaits
      ∧ t.clockSeen = s.clockSeen := by
  obtain ⟨t, reads, e, a, cs, bus, cap⟩ :=
    sweepOp_sends (s := accept s) (SweepParams.endless_eq_false.mpr ends) real h
  rw [(accept_untouched s).sweepTr] at a
  obtain ⟨drawn, returned, traced⟩ := a.ofAccept cap
  exact ⟨ret t, by rw [e, Flow.finish_on], drawn, returned, traced, cs, bus, a.xfers, a.waits, a.clockSeen⟩

/-- Settles O34: FRAME_FIXED_13 is a sweep whose real lines carry the value. -/
theorem frameFixedCompletes : Obligations.FrameFixedCompletes := by
  intro s q n ends h
  obtain ⟨t, e, completes⟩ :=
    sweep_returns (fun p => fixedLine p s.args.value s.args.stage s.par.borderDefault) ends h
  exact ⟨t, by rw [exec_frameFixed13, e], completes⟩

/-- Settles O35: FRAME_DATA_13 is a sweep whose real lines carry the image. -/
theorem frameDataCompletes : Obligations.FrameDataCompletes := by
  intro s q n ends h
  obtain ⟨t, e, completes⟩ := sweep_returns
    (fun p => imageLine (s.args.base s.par.addrBits) s.bpl s.par.addrBits p s.args.stage s.par.borderDefault) ends h
  exact ⟨t, by rw [exec_frameData13, e], completes⟩

/-! ## A sweep that does not end -/

/-- In a wait for BUSY that never ends, outside BEGIN step 3 (R261). -/
def InBusyWait (s : State) : Prop := s.run = true ∧ s.pos = .busyWait false

/-- A part of an operation that leaves the written order in a wait that never ends, and nowhere else. -/
abbrev OnlyWaits (o : Op) : Prop := Ends InBusyWait (fun _ => True) o fun _ => True

@[simp] theorem act_onlyWaits (f : State → State) : OnlyWaits (act f) := .act fun _ _ => trivial

@[simp] theorem xferW_onlyWaits (b : Byte) : OnlyWaits (xferW b) := by
  intro s _
  rw [xferW, waitWhileBusy]
  split
  · trivial
  · exact ⟨rfl, rfl⟩

@[simp] theorem writeFramed_onlyWaits (bytes : List Byte) : OnlyWaits (writeFramed bytes) :=
  .cons (act_onlyWaits _) <| .cons (.forEach xferW_onlyWaits) <| .cons (act_onlyWaits _) .nil

@[simp] theorem regSelect_onlyWaits (a : Byte) : OnlyWaits (regSelect a) := .inOrder (by simp)

@[simp] theorem regWrite_onlyWaits (a : Byte) (d : RegData → Byte) : OnlyWaits (regWrite a d) := fun s =>
  Ends.cons (regSelect_onlyWaits a) (.cons (writeFramed_onlyWaits _) .nil) s

@[simp] theorem pixelByte_onlyWaits (a : LineArgs) (enc : Byte → Stage → Byte) (off : Nat) :
    OnlyWaits (pixelByte a enc off) := by
  intro s hs
  rw [pixelByte]
  split <;> exact xferW_onlyWaits _ _ hs

@[simp] theorem lineFrame_onlyWaits (a : LineArgs) : OnlyWaits (lineFrame a) := by
  have bytes {f : Nat → Op} (h : ∀ x, OnlyWaits (f x)) (count : Nat → Nat) (xs : List Nat) :
      OnlyWaits (forEach (fun x => inOrder [setByte (count x), f x]) xs) :=
    .forEach fun _ => .inOrder (by simp [setByte, h])
  exact .cons (act_onlyWaits _) <| .cons (xferW_onlyWaits _) <| .cons (xferW_onlyWaits _) <|
    .cons (fun s => bytes (fun _ => pixelByte_onlyWaits a odd _) (· + 1) _ s) <| .cons (act_onlyWaits _) <|
    .cons (fun s => bytes (fun _ => xferW_onlyWaits _) id _ s) <|
    .cons (fun s => bytes (fun _ => pixelByte_onlyWaits a even _) id _ s) <| .cons (act_onlyWaits _) .nil

@[simp] theorem lineOp_onlyWaits (a : LineArgs) : OnlyWaits (lineOp a) := .inOrder (by simp)

theorem visitOp_onlyWaits (real : Nat → LineArgs) (border : Byte) (rep total : Nat) (q : Spot) :
    OnlyWaits (visitOp real border rep total q) := .inOrder (by simp [setSpot])

/-- After a block of a sweep whose step is 0 the operation still runs: it stands between two blocks, or in a wait that
never ends (R203, R261). -/
theorem zeroStepRound_runs (block : Nat) (s : State) :
    let t := (zeroStepRound block s).finish
    t.run = true ∧ (t.pos = .zeroStep block ∨ t.pos = .busyWait false) := by
  have sent : (zeroStepBlock block s).Meets InBusyWait fun _ => True :=
    Ends.forEach (fun _ => visitOp_onlyWaits _ _ _ _ _) s trivial
  revert sent
  rw [zeroStepRound]
  cases zeroStepBlock block s with
  | on t => exact fun _ => ⟨rfl, .inl rfl⟩
  | off t => exact fun waits => ⟨waits.1, .inr waits.2⟩

/-- A sweep that does not end sends one block and stands before the next (R203). -/
theorem sweepOp_of_endless {q : SweepParams} {s : State} (real : Nat → LineArgs) (h0 : q.step = 0) (hr : 1 ≤ q.rep)
    (hl : 1 ≤ s.lines + q.block) : sweepOp q real s = zeroStepRound q.block s := by
  have : q.endless s.lines = true := by
    rw [← Bool.not_eq_false, SweepParams.endless_eq_false]
    omega
  rw [sweepOp, if_pos this]

/-- Settles O36: each block of the sweep, and each sample of a wait that never ends, leaves `RUN` at 1. -/
theorem zeroStepSweepNeverReturns : Obligations.ZeroStepSweepNeverReturns := by
  refine ⟨?_, fun s block hr hp hq => ?_⟩
  · rintro s i hi q h0 hrep hl
    obtain ⟨real, e⟩ : ∃ real, exec i s = .next (sweepOp q real (accept s)).finish := by
      rcases hi with rfl | rfl
      · exact ⟨_, exec_frameFixed13 s⟩
      · exact ⟨_, exec_frameData13 s⟩
    rw [sweepOp_of_endless (s := accept s) real h0 hrep hl] at e
    exact ⟨_, e, zeroStepRound_runs q.block (accept s)⟩
  · rw [step_of_run hr hq]
    rcases hp with hp | hp
    · rw [hp]
      exact ⟨_, by rw [Sequencer.goOn, hp], zeroStepRound_runs block s⟩
    · obtain ⟨evs, he⟩ := sampleBusy_eq false s
      exact ⟨{ s with trace := s.trace ++ evs }, by rw [goOn_of_busyWait hp, he], hr, .inl rfl⟩

end Sys2Proof.Machine

/-! FRAME_STAGE2 (R190 to R195): its timed halves when their waits end, from the command and from a position between two
passes. -/

namespace Sys2Proof.Machine

theorem exec_frameStage2 (s : State) :
    exec .frameStage2 s = .next (timedHalves (stage2Halves s.band) (accept s)).finish := rfl

/-- A return leaves no accumulator, so the halves end as resumed ones do from a cleared one, even if there is none. -/
theorem timedHalves_finish (hs : List (Byte × Nat)) (s : State) :
    (timedHalves hs s).finish = (resumeTimed hs (clearAcc s)).finish := by
  cases hs with
  | nil => rfl
  | cons x rest => rw [timedHalves_eq_resume _ (by simp)]

theorem goOn_of_timed {todo : List (Byte × Nat)} {s : State} (h : s.pos = .timed todo) :
    Sequencer.goOn s = .next (resumeTimed todo s).finish := by
  simp only [Sequencer.goOn, h]

/-! ## The passes of a step, seen from before and after it -/

/-- From `s` to `t` only `RUN`, the position, the working registers and the count of returns may differ. -/
structure Aside (s t : State) : Prop extends Drawn s t where
  cs : t.pins.cs = s.pins.cs
  busEn : t.busEn = s.busEn
  clockSeen : t.clockSeen = s.clockSeen
  rxSeen : t.rxSeen = s.rxSeen
  waitSeen : t.waitSeen = s.waitSeen
  trace : t.trace = s.trace

theorem Aside.refl (s : State) : Aside s s := ⟨(Drew.refl s).drawn, rfl, rfl, rfl, rfl, rfl, rfl⟩

theorem aside_accept (s : State) : Aside s (clearAcc (accept s)) :=
  ⟨(Drew.trans ⟨moved_accept s, rfl⟩ (setWork_drew _ _)).drawn, rfl, rfl, rfl, rfl, rfl, rfl⟩

theorem aside_ret (s : State) : Aside s (ret s) :=
  ⟨Drew.drawn ⟨moved_ret s, rfl⟩, rfl, rfl, rfl, rfl, rfl, rfl⟩

theorem aside_stop (s : State) (p : Pos) : Aside s { s with run := true, pos := p } :=
  ⟨(stop_drew s p).drawn, rfl, rfl, rfl, rfl, rfl, rfl⟩

/-- What `n` passes leave of the state before the step: the frame, the trace grown by their outline, CS and the bus as
a LINE leaves them, and their counts. -/
structure Ticked (s t : State) (o : List Event) (n : Nat) : Prop extends Drawn s t where
  traced : Traced s t o
  cs : t.pins.cs = if n * s.lines = 0 then s.pins.cs else true
  busEn : t.busEn = if n * s.lines = 0 then s.busEn else false
  clocks : t.clockSeen = s.clockSeen + 2 * n
  xfers : t.rxSeen = s.rxSeen + n * s.lines * s.lineXfers
  waits : t.waitSeen = s.waitSeen + n * s.lines * s.lineWaits

theorem Passed.ticked {s u v t : State} {o : List Event} {n : Nat} (a : Passed u v o n) (b : Aside s u)
    (c : Aside v t) : Ticked s t o n := by
  obtain ⟨evs, trace, out⟩ := a.traced
  have lines := b.toUntouched.lines
  refine ⟨b.toDrawn.trans (a.toDrawn.trans c.toDrawn), ⟨evs, by rw [c.trace, trace, b.trace], out⟩, ?_, ?_, ?_, ?_, ?_⟩
  · rw [c.cs, a.cs, b.cs, lines]
  · rw [c.busEn, a.busEn, b.busEn, lines]
  · rw [c.clockSeen, a.clocks, b.clockSeen]
  · rw [c.rxSeen, a.xfers, b.rxSeen, lines, b.toUntouched.lineXfers, Nat.mul_assoc]
  · rw [c.waitSeen, a.waits, b.waitSeen, lines, b.toUntouched.lineWaits, Nat.mul_assoc]

section
variable {s u : State} (b : Aside s u) (hr : u.returns = s.returns)
include b

theorem Aside.responsive {n : Nat} (h : Responsive s (n * s.lines * s.lineWaits)) :
    Responsive u (n * (u.lines * u.lineWaits)) := by
  rw [b.toUntouched.lines, b.toUntouched.lineWaits, ← Nat.mul_assoc]
  intro k hk
  rw [b.env, b.waitSeen]
  exact h k hk

theorem Aside.passPlan {acc : Nat} {hs : List (Byte × Nat)} {ns : List Nat}
    (h : PassPlan s acc hs s.clockSeen ns) : PassPlan u acc hs u.clockSeen ns := by
  rw [b.clockSeen]
  exact b.toUntouched.passPlan h

include hr

/-- Halves that all reach their minimum within the step, and then the return (R191, R195). -/
theorem resumeTimed_returns {hs : List (Byte × Nat)} {ns : List Nat} (plan : PassPlan s u.work.acc hs s.clockSeen ns)
    (h : Responsive s (ns.sum * s.lines * s.lineWaits)) :
    ∃ t, (resumeTimed hs u).finish = t ∧ Ticked s t (halvesTr s hs ns) ns.sum ∧ Returned s t := by
  obtain ⟨t, e, a⟩ := resumeTimed_passes hs ns u (b.passPlan plan) (b.responsive h)
  rw [b.toUntouched.halvesTr] at a
  exact ⟨ret t, by rw [e, Flow.finish_on], a.ticked b (aside_ret t), rfl, rfl, congrArg (· + 1) (a.returns.trans hr)⟩

/-- Halves of which some reach their minimum within the step and the next one does not: the step ends there (R193,
R262). -/
theorem resumeTimed_stands {done : List (Byte × Nat)} {ns : List Nat} {v : Byte} {minMs : Nat}
    (rest : List (Byte × Nat)) (plan : PassPlan s u.work.acc done s.clockSeen ns) :
    let c := s.clockSeen + 2 * ns.sum
    let m := stepPasses s c
    let kept := if done = [] then u.work.acc else 0
    kept + measured s c m < minMs → Responsive s ((ns.sum + m) * s.lines * s.lineWaits) →
    ∃ t, (resumeTimed (done ++ (v, minMs) :: rest) u).finish = t
      ∧ Ticked s t (halvesTr s (done ++ [(v, minMs)]) (ns ++ [m])) (ns.sum + m)
      ∧ t.run = true ∧ t.pos = .timed ((v, minMs) :: rest) ∧ t.work.acc = kept + measured s c m
      ∧ t.returns = s.returns := by
  intro c m kept short h
  have key := resumeTimed_stops done ns v minMs rest u (b.passPlan plan)
  rw [b.clockSeen, b.toUntouched.stepPasses, b.toUntouched.measured, b.toUntouched.halvesTr] at key
  obtain ⟨t, e, a, acc⟩ := key short (b.responsive h)
  exact ⟨_, by rw [e, Flow.finish_off], a.ticked b (aside_stop t _), rfl, rfl, acc, a.returns.trans hr⟩

end

/-! ## From the command -/

/-- Settles O37: the accepted command begins with a cleared accumulator, and its halves all reach their minimum. -/
theorem frameStage2Completes : Obligations.FrameStage2Completes := by
  intro s ns plan h
  obtain ⟨t, e, a, returned⟩ := resumeTimed_returns (aside_accept s) rfl plan h
  exact ⟨t, by rw [exec_frameStage2, timedHalves_finish, e], a.toDrawn, returned, a.traced, a.cs, a.busEn, a.clocks,
    a.xfers, a.waits⟩

/-- Settles O38: the accepted command begins with a cleared accumulator, and one of its halves falls short. -/
theorem frameStage2StopsBetweenPasses : Obligations.FrameStage2StopsBetweenPasses := by
  intro s done v minMs rest ns c m halves plan short h
  have kept : (if done = [] then (clearAcc (accept s)).work.acc else 0) = 0 := ite_self 0
  obtain ⟨t, e, a, run, pos, acc, returns⟩ :=
    resumeTimed_stands (aside_accept s) rfl rest plan (by rw [kept, Nat.zero_add]; exact short) h
  rw [kept, Nat.zero_add] at acc
  exact ⟨t, by rw [exec_frameStage2, timedHalves_finish, halves, e], run, pos, acc, a.toDrawn, a.traced,
    by rw [a.clocks, Nat.mul_add, Nat.add_assoc], returns, a.waits⟩

/-! ## From between two passes -/

/-- Settles O39: the step goes on from the accumulator kept, and the halves still to run all reach their minimum. -/
theorem timedHalvesResume : Obligations.TimedHalvesResume := by
  intro s todo ns run pos host plan h
  obtain ⟨t, e, a, returned⟩ := resumeTimed_returns (.refl s) rfl plan h
  exact ⟨t, by rw [step_of_run run host, goOn_of_timed pos, e], a.toDrawn, returned, a.traced, a.cs, a.busEn, a.clocks,
    a.xfers, a.waits⟩

/-- Settles O40: the step goes on from the accumulator kept, and one of the halves still to run falls short. -/
theorem stalledClockKeepsLooping : Obligations.StalledClockKeepsLooping := by
  intro s done v minMs rest ns c m kept run pos host plan short h
  obtain ⟨t, e, a, run', pos', acc, returns⟩ := resumeTimed_stands (.refl s) rfl rest plan short h
  exact ⟨t, by rw [step_of_run run host, goOn_of_timed pos, e], run', pos', acc, a.toDrawn, a.traced,
    by rw [a.clocks, Nat.mul_add, Nat.add_assoc], returns, a.waits⟩

end Sys2Proof.Machine

/-! The framing engine's primitives, event by event: bus enable and disable (R211, R212), the byte and its wait
(R214), and the select frame of WIRE.SELECT (R87, R218). -/

namespace Sys2Proof.Machine

theorem busEnable_trace (s : State) : (busEnable s).trace
    = s.trace ++ [.bus true, .xfer 0 (s.answer 0), .xfer 0 (s.answer 1), .delayUs s.par.busSettleUs] := by
  simp [busEnable, State.answer]

theorem busDisable_trace (s : State) : (busDisable s).trace
    = s.trace ++ [.xfer 0 (s.answer 0), .xfer 0 (s.answer 1), .delayUs s.par.busSettleUs, .bus false] := by
  simp [busDisable, State.answer]

/-- Settles O19: the traces are the two lemmas above; the flag, the pins and the waits are the laws of the two
operations. -/
theorem busEnableDisableEvents : Obligations.BusEnableDisableEvents := fun s =>
  ⟨⟨_, _, busEnable_trace s⟩, busEnable_busEn s, busEnable_pins s, busEnable_waitSeen s,
    ⟨_, _, busDisable_trace s⟩, busDisable_busEn s, busDisable_pins s, busDisable_waitSeen s⟩

/-- The samples of a wait with no delay between them (R214). -/
theorem waitEvents_bare (k : Nat) : waitEvents [] k = List.replicate k (.busy true) ++ [.busy false] := by
  rw [waitEvents, List.flatten_replicate_singleton]

/-- Settles O20: after the transfer the wait ends, with samples that no delay separates, or it never ends. -/
theorem byteThenBusyWait : Obligations.ByteThenBusyWait := by
  refine fun s b => ⟨fun k hk => ?ends, fun hn => ?hangs⟩
  case ends =>
    have hw : (xfer b s).env.waitAt (xfer b s).waitSeen = some k := hk
    refine ⟨_, waitWhileBusy_ends hw, rfl, ?_, rfl, rfl⟩
    simp only [xfer_trace, waitEvents_bare, List.append_assoc, List.singleton_append, State.answer, Nat.add_zero]
  case hangs =>
    have hw : (xfer b s).env.waitAt (xfer b s).waitSeen = none := hn
    exact ⟨_, waitWhileBusy_hangs hw, rfl, rfl, rfl, rfl, rfl⟩

/-- Settles O21: the instruction is `regSelect` of its operand. -/
theorem wireSelectFrame : Obligations.WireSelectFrame := by
  intro a s h
  have hexec : exec (.wireSelect a) s = .next (regSelect a s).state := rfl
  obtain ⟨t, ht, hs, hpins, hbus, hsel, hcap, -⟩ := regSelect_sends a s h
  exact ⟨t, by rw [hexec, ht, Flow.state_on], hs.drawn hcap, hs.traced, by rw [hpins], hsel, hbus, hs.run, hs.pos,
    hs.xfers, hs.waits⟩

end Sys2Proof.Machine

/-! The fault path as a whole (R236, R237), the codes each command can leave in `ST` (R230), and that an idle machine
holds everything and no instruction traps (R232, R249). -/

namespace Sys2Proof.Machine

/-- `power_off` captures no byte (R160, R237). -/
theorem powerOff_rxcap (s : State) : (powerOff s).rxcap = s.rxcap := by
  obtain ⟨t, ht, hp, -⟩ := powerOff_pulses s
  rw [ht, setPsm_rxcap, hp.rxcap]
  simp [pulledDown]

/-- Settles O42: the account of the fault path as a stretch from `s`, and what `power_off`, its last part before the
return, leaves behind. -/
theorem raiseRecordsCodeAndPowersOff : Obligations.RaiseRecordsCodeAndPowersOff := by
  intro c s
  obtain ⟨u, hu, a⟩ := (Proceeds.refl s).raise c
  have ends : ret u = ret (powerOff (setPsm .faulted (setStatus c s))) := Flow.off.inj hu.symm
  obtain ⟨psm, pins, bus⟩ : PoweredDown (ret u) := by
    rw [ends]
    exact powerOff_poweredDown (setPsm .faulted (setStatus c s))
  have toff : (ret u).toff = s.toff := by rw [ends, ret_toff, powerOff_toff, setPsm_toff, setStatus_toff]
  have rxcap : (ret u).rxcap = s.rxcap := by rw [ends, ret_rxcap, powerOff_rxcap, setPsm_rxcap, setStatus_rxcap]
  exact ⟨ret u, hu, a.toUntouched.trans (moved_ret u).toUntouched, a.returned, a.st, psm, pins, bus, toff, rxcap,
    a.waits, a.traced⟩

/-! ## Fault codes -/

/-- END, returned or in a wait that never ends, leaves `ST` as it found it or `PowerFailure` (R153, R230). -/
theorem exec_endCmd_st {s t : State} (h : exec .endCmd s = .next t) : t.st = s.st ∨ t.st = .powerFailure := by
  cases h
  exact (endOp_stIs s.st (accept s) rfl).finish fun _ => .inl

/-- Settles O54: BEGIN can leave each of the three codes, END one of them, and no other instruction writes `ST`. -/
theorem faultCodesByCommand : Obligations.FaultCodesByCommand := by
  intro i s t h
  by_cases hb : i = .beginCmd
  · exact ⟨fun _ => .inr hb, fun _ => .inr hb, fun _ => .inr (.inl hb)⟩
  · by_cases he : i = .endCmd
    · subst he
      obtain st | failed := exec_endCmd_st h
      · exact ⟨fun _ => .inl st, fun _ => .inl st, fun _ => .inl st⟩
      · exact ⟨fun hc => absurd (failed.symm.trans hc) nofun, fun hc => absurd (failed.symm.trans hc) nofun,
          fun _ => .inr (.inr rfl)⟩
    · have st : t.st = s.st := ((writersOfStatusPowerAndBand i s t h).2 hb he).1
      exact ⟨fun _ => .inl st, fun _ => .inl st, fun _ => .inl st⟩

/-! ## Idle, and no traps -/

/-- The sequencer's turn with `RUN = 0` (R249). -/
theorem turn_of_idle {s : State} (hr : s.run = false) : Sequencer.turn s = .next s := by
  simp [Sequencer.turn, hr]

/-- With nothing from the host a step is the sequencer's turn (R28, R70). -/
theorem step_of_noAct {s : State} (hq : s.hostQ = []) : step s = Sequencer.turn s := by
  simp only [step, hq]

/-- Settles O7: without a host action a step is the sequencer's turn, which with `RUN = 0` holds everything; and every
instruction answers a next state. -/
theorem idleHoldsAndExecAlwaysAnswers : Obligations.IdleHoldsAndExecAlwaysAnswers := by
  refine ⟨fun s hr hq => (step_of_noAct hq).trans (turn_of_idle hr), fun i s => ?_⟩
  obtain ⟨t, ht, -⟩ := exec_next_ran i s
  exact ⟨t, ht⟩

end Sys2Proof.Machine

/-! What a reset leaves: every register at the value R250 gives it, and a state that meets the invariant. -/

namespace Sys2Proof.Machine

/-- Where every row of the profile table is sound a reset answers; `reset_next` says what (R122, R250). -/
theorem reset_answers {s : State} (hwf : ∀ z, (s.par.profile z).wf = true) : ∃ t, HostPort.reset s = .next t :=
  ⟨_, if_pos ((tableOk_iff s.par).mpr hwf)⟩

/-- The default temperature of a reset lies in the band whose offset is 1 (R130, R250). -/
theorem bandOffset_defaultTemp : bandOffset Config.defaultTemp = 1 := by decide

/-- Settles O13: the step is the host's reset, which the sound table lets through, and `reset_next` names its writes. -/
theorem resetValues : Obligations.ResetValues := by
  intro s rest hq hwf
  obtain ⟨t, ht⟩ := reset_answers (s := { s with hostQ := rest }) hwf
  refine ⟨t, (step_of_act hq nofun).trans ht, ?_⟩
  obtain rfl := reset_next ht
  exact ⟨rfl, bandOffset_defaultTemp, rfl, rfl, rfl, rfl, rfl, rfl, rfl, rfl, rfl, rfl, rfl, rfl, rfl, rfl, rfl, rfl,
    rfl⟩

/-- The rows of the profile table at `State.reset` are sound (R122). -/
theorem reset_profile_wf (z : Size) : (State.reset.par.profile z).wf = true := by
  cases z <;> rfl

/-- Settles O56: a reset of `State.reset` answers, and leaves it as it was; what a reset leaves meets the invariant. -/
theorem resetMeetsInvariant : Obligations.ResetMeetsInvariant := by
  obtain ⟨t, ht⟩ := reset_answers reset_profile_wf
  have fixed : t = State.reset := reset_next ht
  have met : Inv t := reset_inv reset_mem_wf ht
  rw [fixed] at met
  exact met

end Sys2Proof.Machine
